-- ==== Sys2Proof/Word.lean ====
section
/-! DEFINITION. The word types of the engine and of its interface (00_scope.md R5, R8, R9).
An `SW`-bit value is held in the widest container the spec allows, 256 bits, with zeros above bit `SW - 1`
(DESIGN CHOICE, safe, notes/assumptions/2.md). -/

namespace Sys2Proof

/-- A pin identifier, a bit index or a chain length: 8 bits (R8, R9, R20). -/
abbrev Byte := BitVec 8

/-- A command word, or one of the 16-bit registers `CUR`, `CNT`, `FAULT_CMD`, `FAULT_COUNT` (R9, R26). -/
abbrev CmdWord := BitVec 16

/-- The configuration operand `CFG` (R55). -/
abbrev CfgWord := BitVec 32

/-- The container of an `SW`-bit value: `R`, `DATA`, `RESULT` (R5: `SW <= 256`). -/
abbrev Data := BitVec 256

end Sys2Proof
end

