-- ==== Sys2Proof/Config.lean ====
section
/-! DEFINITION. What an implementation of the engine fixes (the state width) and the free values:
what the spec leaves to a draw, or calls no value at all. No free value has a body. -/

namespace Sys2Proof

/-- `SW`, the parameter of R5, as its number of bytes: a multiple of 8 bits with `8 <= SW <= 256`. -/
structure StateWidth where
  bytes : Nat
  legal : 1 ≤ bytes ∧ bytes ≤ 32
deriving DecidableEq, Repr

/-- `SW` in bits (R5). -/
def StateWidth.bits (w : StateWidth) : Nat := 8 * w.bytes

/-- The registers that hold `⊥` from reset until INIT writes them and that a command reads (R24). -/
inductive BottomReg where
  | mirror | cfgDs | cfgShcp | cfgStcp | cfgL
deriving DecidableEq, Repr

/-- The state width of `State.reset`: 32, the width of the spec's test vectors.
DESIGN CHOICE (the spec leaves `SW` open, D3), unsafe, notes/assumptions/1.md. -/
def Config.resetWidth : StateWidth := ⟨4, by decide⟩

/-- FREE VALUE. Does the platform fail the call that has `n` calls before it since power-on? Asked only when
`State.ioFail` lists no answer (R29: a draw, under no law). DESIGN CHOICE, safe, notes/assumptions/5.md. -/
opaque Config.platformFails : Nat → Bool

/-- FREE VALUE. What reading a register that holds `⊥` gives (R24: it holds no value).
No run reads one. DESIGN CHOICE, safe, notes/assumptions/4.md. -/
opaque Config.bottom : BottomReg → Data

end Sys2Proof
end

