-- ==== Sys2Proof/Syntax.lean ====
section
/-! DEFINITION. The commands of `SREG-PUSH/1` (R2, R57), one constructor per row of the opcode table, each with the
operands of its assembler line (R64); and the three values that one transaction on the command port carries (R52). -/

namespace Sys2Proof

/-- The eight commands (R2). Index, pin and length operands are the 8-bit fields of R54 and R55, `value` and `v` are
the value operand of R56. -/
inductive Instr where
  /-- `init ds, shcp, stcp, L, value` (R66). -/
  | init (ds shcp stcp l : Byte) (value : Data)
  /-- `testbit i` (R72). -/
  | testBit (i : Byte)
  /-- `testall` (R73). -/
  | testAll
  /-- `writebit i, v` (R74). -/
  | writeBit (i : Byte) (v : Data)
  /-- `invertbit i` (R75). -/
  | invertBit (i : Byte)
  /-- `writebits v` (R87). -/
  | writeBits (v : Data)
  /-- `latchlow` (R85). -/
  | latchLow
  /-- `latchhigh` (R86). -/
  | latchHigh
deriving DecidableEq, Repr

/-- One transaction on the command port (R52): the command word and the two operand buses. -/
structure Command where
  cmd  : CmdWord
  data : Data
  cfg  : CfgWord
deriving DecidableEq, Repr

end Sys2Proof
end

