-- ==== Sys2Proof/WellFormed.lean ====
section
/-! DEFINITION. Which commands an assembler accepts for an engine of state width `SW` (R64): a `value` or `v` that does
not fit in `SW` bits is refused. The other limits of R64 (`i`, pins and `L` at most 255) hold by the operands' types;
Machine/Asm.lean checks them on the numbers of a source line. `i < W` and the range of `L` are the engine's checks. -/

namespace Sys2Proof

/-- The value operand fits in `SW` bits (R64). -/
def Data.fits (w : StateWidth) (v : Data) : Bool := decide (v.toNat < 2 ^ w.bits)

/-- What R64's assembler accepts. -/
def Instr.wellFormed (w : StateWidth) : Instr → Bool
  | .init _ _ _ _ value => Data.fits w value
  | .testBit _ => true
  | .testAll => true
  | .writeBit _ v => Data.fits w v
  | .invertBit _ => true
  | .writeBits v => Data.fits w v
  | .latchLow => true
  | .latchHigh => true

end Sys2Proof
end

