-- ==== Sys2Proof/Decode.lean ====
section
/-! DEFINITION. The command decoder (R54, R57, R58, R59), total, refusing by name; after it the encoder (R54, R55, R64)
and the host's `decodeTableWord`. -/

namespace Sys2Proof

/-- Why a command word is illegal (R59); each raises RESERVED_ENCODING (R112). -/
inductive DecodeError where
  /-- `OP` is `0x0` or in `0x9..0xF`. -/
  | reservedOpcode
  /-- `RSV` is not zero. -/
  | reservedField
  /-- `IDX` is not zero and the command takes no index. -/
  | strayIndex
deriving DecidableEq, Repr

/-- Fields of the command word (R54). -/
def CmdWord.op (w : CmdWord) : BitVec 4 := w.extractLsb' 0 4
def CmdWord.rsv (w : CmdWord) : BitVec 4 := w.extractLsb' 4 4
def CmdWord.idx (w : CmdWord) : Byte := w.extractLsb' 8 8

/-- Fields of the configuration operand (R55). -/
def CfgWord.ds (c : CfgWord) : Byte := c.extractLsb' 0 8
def CfgWord.shcp (c : CfgWord) : Byte := c.extractLsb' 8 8
def CfgWord.stcp (c : CfgWord) : Byte := c.extractLsb' 16 8
def CfgWord.l (c : CfgWord) : Byte := c.extractLsb' 24 8

/-- A command that takes no index: `IDX` must be zero (R59). -/
def withoutIndex (w : CmdWord) (i : Instr) : Except DecodeError Instr :=
  if CmdWord.idx w = 0 then .ok i else .error .strayIndex

/-- The opcode map (R57) over a word whose `RSV` is zero. -/
def decodeOpcode (c : Command) : Except DecodeError Instr :=
  match (CmdWord.op c.cmd).toNat with
  | 1 => withoutIndex c.cmd
      (.init (CfgWord.ds c.cfg) (CfgWord.shcp c.cfg) (CfgWord.stcp c.cfg) (CfgWord.l c.cfg) c.data)
  | 2 => .ok (.testBit (CmdWord.idx c.cmd))
  | 3 => withoutIndex c.cmd .testAll
  | 4 => .ok (.writeBit (CmdWord.idx c.cmd) c.data)
  | 5 => .ok (.invertBit (CmdWord.idx c.cmd))
  | 6 => withoutIndex c.cmd (.writeBits c.data)
  | 7 => withoutIndex c.cmd .latchLow
  | 8 => withoutIndex c.cmd .latchHigh
  | _ => .error .reservedOpcode

/-- Operand decoding and dispatch on `OP` (R58, R59, R62). -/
def decode (c : Command) : Except DecodeError Instr :=
  if CmdWord.rsv c.cmd = 0 then decodeOpcode c else .error .reservedField

/-- Is the command word legal (R59)? The operand buses play no part in it (R57). -/
def legalWord (w : CmdWord) : Bool :=
  match decode ⟨w, 0, 0⟩ with
  | .ok _ => true
  | .error _ => false

/-- A command word from its index and operation code (R54): `iiiiiiii 0000 oooo`. -/
def cmdWord (idx : Byte) (op : BitVec 4) : CmdWord := idx ++ (0#4 ++ op)

/-- The configuration operand `{L, stcp, shcp, ds}` (R55, R64). -/
def cfgWord (ds shcp stcp l : Byte) : CfgWord := l ++ (stcp ++ (shcp ++ ds))

/-- The command word of a command (R64, column `CMD`). -/
def encodeWord : Instr → CmdWord
  | .init _ _ _ _ _ => cmdWord 0 1
  | .testBit i => cmdWord i 2
  | .testAll => cmdWord 0 3
  | .writeBit i _ => cmdWord i 4
  | .invertBit i => cmdWord i 5
  | .writeBits _ => cmdWord 0 6
  | .latchLow => cmdWord 0 7
  | .latchHigh => cmdWord 0 8

/-- The value operand of a command that has one (R56). -/
def encodeData : Instr → Option Data
  | .init _ _ _ _ value => some value
  | .testBit _ => none
  | .testAll => none
  | .writeBit _ v => some v
  | .invertBit _ => none
  | .writeBits v => some v
  | .latchLow => none
  | .latchHigh => none

/-- The configuration operand of a command that has one (R55). -/
def encodeCfg : Instr → Option CfgWord
  | .init ds shcp stcp l _ => some (cfgWord ds shcp stcp l)
  | .testBit _ => none
  | .testAll => none
  | .writeBit _ _ => none
  | .invertBit _ => none
  | .writeBits _ => none
  | .latchLow => none
  | .latchHigh => none

/-- The transaction of a command (R64). A bus the command ignores carries 0, one of R64's "any". -/
def encode (i : Instr) : Command :=
  ⟨encodeWord i, (encodeData i).getD 0, (encodeCfg i).getD 0⟩

/-- The transaction that a number of the opcode table stands for: bits 15:0 are `CMD`; the operand buses count on from
there, `CFG` in bits 47:16 and `DATA` above. DESIGN CHOICE (the spec numbers no bus), safe, notes/assumptions/7.md. -/
def commandOfBits (nbits w : Nat) : Command :=
  let w := w % 2 ^ nbits
  ⟨BitVec.ofNat 16 w, BitVec.ofNat 256 (w / 2 ^ 48), BitVec.ofNat 32 (w / 2 ^ 16)⟩

/-- What the decoder reads from a word of the opcode table, the operand buses at zero where `nbits` ends. -/
def decodeTableWord (nbits w : Nat) : Option Instr :=
  match decode (commandOfBits nbits w) with
  | .ok i => some i
  | .error _ => none

end Sys2Proof
end

