-- ==== Sys2Proof/Machine/State.lean ====
section
/-! DEFINITION. The state of the engine, of the platform's pins and of the inputs still to come, as plain data
(10_state.md R17 to R35), and the state after reset. -/

namespace Sys2Proof.Machine

/-- Why a step would stop the model. EMPTY: every fault of the spec is taken, it leads to a next state with
`SEQ = FAULTED` (R110, R121, R123), so nobody raises one of these. Safe, notes/assumptions/13.md. -/
inductive Fault where
deriving DecidableEq, Repr

/-- Why the model would give an instruction no meaning. -/
inductive Refusal where
  /-- Raised by `exec` for an instruction that has no meaning yet; no arm raises it now. Safe. -/
  | notModelled (mnemonic : String)
deriving DecidableEq, Repr

/-- The level of a pin, or the value of a chain stage: 0, 1 or unknown (R27, R91). -/
inductive Level where
  | low | high | x
deriving DecidableEq, Repr

/-- `MODE[p]` (R27). -/
inductive PinMode where
  | unconfigured | output
deriving DecidableEq, Repr

/-- The platform's state of one pin: `MODE[p]` and `LEVEL[p]` (R27). -/
structure PinState where
  mode  : PinMode
  level : Level
deriving DecidableEq, Repr

/-- Every pin at power-on (R27, R135). -/
def PinState.powerOn : PinState := ⟨.unconfigured, .x⟩

/-- A platform call (R13): `PinConfig(p)` or `PinWrite(p, lvl)`. -/
inductive PinCall where
  | config (p : Byte)
  | write (p : Byte) (lvl : Bool)
deriving DecidableEq, Repr

/-- An event of the output trace (R30), with the answer its call got, which R92 needs (notes/assumptions/11.md). -/
structure Event where
  call : PinCall
  ok   : Bool
deriving DecidableEq, Repr

/-- A micro-operation of the sequencer (R79). -/
inductive MicroOp where
  | confDs | confShcp | confStcp
  | llStcp | llDs | llShcp
  | shClkLo (i : Nat) | shData (i : Nat) | shClkHi (i : Nat) | shDataLo (i : Nat)
  | lhStcp
deriving DecidableEq, Repr

/-- `SEQ` (R26). The list of `RUN(ops)` is never empty, so it is held as its head and its tail
(DESIGN CHOICE, safe, notes/assumptions/15.md). -/
inductive Seq where
  | idle
  | run (op : MicroOp) (rest : List MicroOp)
  | faulted
deriving DecidableEq, Repr

/-- Fault causes (R111). -/
inductive Cause where
  | none
  | reservedEncoding | notInitialized | alreadyInitialized | invalidChainLength
  | invalidPinAssignment | invalidIndex | platformIoFailure
deriving DecidableEq, Repr

/-- One move of the host on its command port: a step with `cmd_valid = 0`, or a command held at the port, with
`cmd_valid = 1`, until the engine accepts it (R144, R145).
DESIGN CHOICE (the host as a script), unsafe, notes/assumptions/6.md. -/
inductive HostMove where
  | wait
  | present (c : Command)
deriving DecidableEq, Repr

/-- Everything the spec gives the machine. An `Option` register that is `none` holds `⊥`, the spec's own content of
a register nothing has written since reset (R12, R24; notes/assumptions/3.md). -/
structure State where
  /-- `SW` (R5): fixed, no step changes it. -/
  width      : StateWidth
  /-- `R` (R18, R19). -/
  mirror     : Option Data
  /-- `CFG_DS`, `CFG_SHCP`, `CFG_STCP`, `CFG_L` (R20). -/
  cfgDs      : Option Byte
  cfgShcp    : Option Byte
  cfgStcp    : Option Byte
  cfgL       : Option Byte
  /-- `STATUS.CONFIGURED` (R21). -/
  configured : Bool
  /-- `STATUS.CAUSE` (R21, R111). -/
  cause      : Cause
  /-- `FAULT_CMD` (R22). -/
  faultCmd   : CmdWord
  /-- `FAULT_COUNT` (R23). -/
  faultCount : BitVec 16
  /-- `RESULT` (R25). -/
  result     : Option Data
  /-- `SEQ`, `CUR`, `CNT` (R26). -/
  seq        : Seq
  cur        : CmdWord
  cnt        : BitVec 16
  /-- Output `resp_valid` in the step just taken (R32, R63; notes/assumptions/9.md). -/
  respValid  : Bool
  /-- Outputs `io_valid`, `io_kind`, `io_pin`, `io_level` in the step just taken: `none` is `io_valid = 0` (R32,
  R81; notes/assumptions/8.md). -/
  ioCall     : Option PinCall
  /-- `MODE[p]` and `LEVEL[p]` (R27), as a sparse list in canonical form: `pinsWf` (notes/assumptions/16.md). -/
  pins       : List (Nat × PinState)
  /-- The output trace since power-on, in issue order (R30). -/
  trace      : List Event
  /-- The host's moves still to come (R17, R32, R144; notes/assumptions/6.md). -/
  host       : List HostMove
  /-- The input `rst` of the steps to come; 0 past the end (R31, R145; notes/assumptions/6.md). -/
  rst        : List Bool
  /-- The input `io_fail` of the platform calls to come; past the end `Config.platformFails` answers
  (R29; notes/assumptions/5.md). -/
  ioFail     : List Bool
deriving DecidableEq, Repr

/-- Power-on, which is the reset state with the platform and the trace at power-on (R35, R135), of an engine of state
width `w`, with no input scheduled. -/
def State.powerOn (w : StateWidth) : State where
  width := w
  mirror := none
  cfgDs := none
  cfgShcp := none
  cfgStcp := none
  cfgL := none
  configured := false
  cause := .none
  faultCmd := 0
  faultCount := 0
  result := none
  seq := .idle
  cur := 0
  cnt := 0
  respValid := false
  ioCall := none
  pins := []
  trace := []
  host := []
  rst := []
  ioFail := []

/-- The machine right after reset (R35, R135), at `SW = 32` (notes/assumptions/1.md). -/
def State.reset : State := State.powerOn Config.resetWidth

end Sys2Proof.Machine
end

