-- ==== Sys2Proof/Machine/Operands.lean ====
section
/-! DEFINITION. Operand forms: the value bus cut to `SW` bits, the bits of an `SW`-bit value, and reading the registers
a command or a micro-operation uses (R10, R12, R38, R56, R58). -/

namespace Sys2Proof

/-- `v[n-1:0]`, zero-extended: what `n` wires carry of `v` (R10). -/
def Data.fitTo (n : Nat) (v : Data) : Data := (v.setWidth n).setWidth 256

/-- `v[i]` (R10). -/
def Data.bit (v : Data) (i : Nat) : Bool := v.getLsbD i

/-- `zext_SW(b)` of one bit (R10, R72). -/
def Data.ofBit (b : Bool) : Data := if b then 1 else 0

/-- `v` with `v[i] <- b` and no other bit changed (R12). -/
def Data.setBit (v : Data) (i : Nat) (b : Bool) : Data :=
  if b then v ||| (1#256 <<< i) else v &&& ~~~(1#256 <<< i)

/-- What a host reads that takes an `SW`-bit value as a signed integer: two's complement (R11). The engine never does. -/
def Data.signedReading (w : StateWidth) (v : Data) : Int := (v.setWidth w.bits).toInt

namespace Machine

/-- What the host's transaction puts on the port of an engine of state width `w`: `data` has `SW` wires (R32). -/
def onBus (w : StateWidth) (c : Command) : Command := { c with data := Data.fitTo w.bits c.data }

/-- The value operand `DATA` as the engine samples it (R52, R56). -/
def dataOperand (s : State) (v : Data) : Data := Data.fitTo s.width.bits v

/-- `pinIndex = zext(CMD[15:8])` (R58). -/
def indexOperand (i : Byte) : Nat := i.toNat

/-- The test `DATA != 0` of WRITE_BIT (R56, R74). -/
def bitOperand (s : State) (v : Data) : Bool := decide (dataOperand s v ≠ 0)

/-- Reading `R` (R18). -/
def readMirror (s : State) : Data :=
  match s.mirror with
  | some v => v
  | none => Data.fitTo s.width.bits (Config.bottom .mirror)

/-- A register of the chain configuration (R20); `⊥` reads as a free value. -/
def readCfg (r : Option Byte) (b : BottomReg) : Byte :=
  match r with
  | some v => v
  | none => (Config.bottom b).setWidth 8

def readDs (s : State) : Byte := readCfg s.cfgDs .cfgDs
def readShcp (s : State) : Byte := readCfg s.cfgShcp .cfgShcp
def readStcp (s : State) : Byte := readCfg s.cfgStcp .cfgStcp
def readL (s : State) : Byte := readCfg s.cfgL .cfgL

/-- `W = 8 * CFG_L` (R7, R20). -/
def shiftWidth (s : State) : Nat := 8 * (readL s).toNat

end Machine
end Sys2Proof
end

