-- ==== Sys2Proof/Machine/Flags.lean ====
section
/-! DEFINITION. The status register, its fields and the output port (R21, R32, R111). -/

namespace Sys2Proof.Machine

/-- The cause codes of R111. -/
def causeCode : Cause → BitVec 4
  | .none => 0
  | .reservedEncoding => 1
  | .notInitialized => 2
  | .alreadyInitialized => 3
  | .invalidChainLength => 4
  | .invalidPinAssignment => 5
  | .invalidIndex => 6
  | .platformIoFailure => 7

/-- `STATUS.BUSY`: 1 exactly while `SEQ` is `RUN(_)` (R21). -/
def busy (s : State) : Bool :=
  match s.seq with
  | .run _ _ => true
  | _ => false

/-- `STATUS.FAULT`: 1 exactly while `SEQ` is `FAULTED` (R21). -/
def faultBit (s : State) : Bool :=
  match s.seq with
  | .faulted => true
  | _ => false

/-- `cmd_ready`: 1 exactly when `SEQ = IDLE` (R32, R61). -/
def cmdReady (s : State) : Bool :=
  match s.seq with
  | .idle => true
  | _ => false

/-- `STATUS` (R21): `CAUSE`, the reserved bit 3, `FAULT`, `BUSY`, `CONFIGURED`, from bit 7 down to bit 0. -/
def status (s : State) : Byte :=
  causeCode s.cause ++ (0#1 ++ (BitVec.ofBool (faultBit s) ++ (BitVec.ofBool (busy s) ++ BitVec.ofBool s.configured)))

/-- `io_kind` of a call: 0 for `PinConfig`, 1 for `PinWrite` (R32). -/
def callKind : PinCall → Bool
  | .config _ => false
  | .write _ _ => true

/-- `io_pin` of a call (R32). -/
def callPin : PinCall → Byte
  | .config p => p
  | .write p _ => p

/-- `io_level` of a call: the level of a `PinWrite`, 0 for `PinConfig` (R32). -/
def callLevel : PinCall → Bool
  | .config _ => false
  | .write _ lvl => lvl

/-- The platform call port while `io_valid = 1` (R32). -/
structure IoPort where
  kind  : Bool
  pin   : Byte
  level : Bool
deriving DecidableEq, Repr

/-- The engine's outputs (R32). `result = none` while `RESULT` is `⊥`: a host reads no value (R24).
`io = none` is `io_valid = 0`. -/
structure Ports where
  cmdReady   : Bool
  respValid  : Bool
  result     : Option Data
  status     : Byte
  fault      : Bool
  faultCmd   : CmdWord
  faultCount : BitVec 16
  io         : Option IoPort
deriving DecidableEq, Repr

/-- The outputs of the step just taken (R32). -/
def ports (s : State) : Ports where
  cmdReady := cmdReady s
  respValid := s.respValid
  result := s.result
  status := status s
  fault := faultBit s
  faultCmd := s.faultCmd
  faultCount := s.faultCount
  io := s.ioCall.map (fun c => ⟨callKind c, callPin c, callLevel c⟩)

end Sys2Proof.Machine
end

