-- ==== Sys2Proof/Machine/Ops.lean ====
section
/-! DEFINITION. The named operations over the state: the platform's pin table, the inputs of a step, acceptance,
fault entry and reset, and the writes of the registers. -/

namespace Sys2Proof.Machine

/-! ### The platform's pin table (R27), a sparse list of the pins that are not as at power-on -/

/-- `MODE[p]` and `LEVEL[p]`; a pin that is not listed is as at power-on (R27, R135). -/
def pinRead : List (Nat × PinState) → Nat → PinState
  | [], _ => PinState.powerOn
  | (k, v) :: rest, p => if k = p then v else pinRead rest p

/-- The entry of a pin, left out when it is as at power-on. -/
def pinEntry (p : Nat) (v : PinState) (rest : List (Nat × PinState)) : List (Nat × PinState) :=
  if v = PinState.powerOn then rest else (p, v) :: rest

/-- Writing both parts of one pin's state, the list kept in canonical form. -/
def pinWrite : List (Nat × PinState) → Nat → PinState → List (Nat × PinState)
  | [], p, v => pinEntry p v []
  | (k, u) :: rest, p, v =>
    if p < k then pinEntry p v ((k, u) :: rest)
    else if p = k then pinEntry p v rest
    else (k, u) :: pinWrite rest p v

/-- The keys rise strictly from `lo`, are pin identifiers, and no entry is as at power-on. -/
def pinsWfFrom (lo : Nat) : List (Nat × PinState) → Bool
  | [] => true
  | (k, v) :: rest => decide (lo ≤ k) && decide (k < 256) && decide (v ≠ PinState.powerOn) && pinsWfFrom (k + 1) rest

/-- The canonical form of the pin table. -/
def pinsWf (l : List (Nat × PinState)) : Bool := pinsWfFrom 0 l

/-- `MODE[p]` (R27). -/
def pinMode (s : State) (p : Byte) : PinMode := (pinRead s.pins p.toNat).mode

/-- `LEVEL[p]` (R27). -/
def pinLevel (s : State) (p : Byte) : Level := (pinRead s.pins p.toNat).level

/-- The level that a `PinWrite` sets (R13). -/
def levelOf (b : Bool) : Level := if b then .high else .low

/-- What a platform call leaves on its pin (R27): a failed call the level `X`, `PinConfig` the mode `OUTPUT`,
`PinWrite` its level. -/
def pinAfter (e : Event) (old : PinState) : PinState :=
  if e.ok then
    match e.call with
    | .config _ => { old with mode := .output }
    | .write _ lvl => { old with level := levelOf lvl }
  else { old with level := .x }

/-- The pin table after one event of the trace (R27). -/
def applyEvent (pins : List (Nat × PinState)) (e : Event) : List (Nat × PinState) :=
  pinWrite pins (callPin e.call).toNat (pinAfter e (pinRead pins (callPin e.call).toNat))

/-- The pin table after a trace, from power-on (R27, R30). -/
def pinsOfTrace (tr : List Event) : List (Nat × PinState) := tr.foldl applyEvent []

/-! ### The inputs of a step (R31, R32) -/

/-- The input `rst` of this step (R31). -/
def rstNow (s : State) : Bool := s.rst.headD false

/-- The command on the port in this step, when `cmd_valid = 1` (R32). -/
def presented (s : State) : Option Command :=
  match s.host with
  | .present c :: _ => some (onBus s.width c)
  | _ => none

/-- A step without a command is over when the step is; a presented command stays until it is accepted (R144). -/
def hostAfterStep : List HostMove → List HostMove
  | .wait :: rest => rest
  | moves => moves

/-- What every step does: it uses up its own `rst` input and the host's step without a command, and its outputs
`resp_valid` and `io_valid` are 0 unless it sets them (R32, R63, R81). -/
def tick (s : State) : State :=
  { s with rst := s.rst.tail, host := hostAfterStep s.host, respValid := false, ioCall := none }

/-- The port's command is taken (R61): it is accepted once and the host may present the next. -/
def takeCommand (s : State) : State := { s with host := s.host.tail }

/-- The answer `io_fail` to the call of this step (R29). -/
def ioFailNow (s : State) : Bool :=
  match s.ioFail with
  | b :: _ => b
  | [] => Config.platformFails s.trace.length

/-! ### Acceptance and completion (R61 to R63) -/

/-- The first two lines of `Dispatch` (R62): `CUR <- cmd`, `CNT <- 0`. -/
def acceptWord (w : CmdWord) (s : State) : State := { s with cur := w, cnt := 0 }

/-- Completion in the acceptance step (R63, R71). -/
def complete (s : State) : State := { s with seq := .idle, respValid := true }

/-- `RUN(ops)`, or `IDLE` when no micro-operation is left (R26, R81). -/
def seqOf : List MicroOp → Seq
  | [] => .idle
  | op :: rest => .run op rest

/-- `SEQ <- RUN(ops)` (R66, R78). -/
def startSeq (ops : List MicroOp) (s : State) : State := { s with seq := seqOf ops }

/-! ### Fault entry and reset -/

/-- Fault entry (R121). -/
def raiseFault (c : Cause) (count : BitVec 16) (s : State) : State :=
  { s with cause := c, faultCmd := s.cur, faultCount := count, seq := .faulted, respValid := true }

/-- The reset action (R132), the only way out of `FAULTED` (R123). The pins, the trace and the inputs still to come
are not the engine's registers and keep their values (R133). -/
def resetAction (s : State) : State :=
  { s with
    seq := .idle, cur := 0, cnt := 0
    configured := false, cause := .none
    faultCmd := 0, faultCount := 0
    mirror := none, cfgDs := none, cfgShcp := none, cfgStcp := none, cfgL := none, result := none
    respValid := false, ioCall := none }

/-! ### Register writes -/

/-- `R <- v` (R12). -/
def setMirror (v : Data) (s : State) : State := { s with mirror := some v }

/-- `RESULT <- v` (R25). -/
def setResult (v : Data) (s : State) : State := { s with result := some v }

/-- INIT's writes of the chain configuration, and `STATUS.CONFIGURED <- 1` (R66). -/
def configure (ds shcp stcp l : Byte) (s : State) : State :=
  { s with cfgDs := some ds, cfgShcp := some shcp, cfgStcp := some stcp, cfgL := some l, configured := true }

/-! ### The acceptance checks (R119), by the form of the command -/

/-- `NOT_INITIALIZED` unless `CONFIGURED = 1` (R113). -/
def checkConfigured (s : State) : Option Cause :=
  if s.configured then none else some .notInitialized

/-- `NOT_INITIALIZED`, then `INVALID_INDEX` (R113, R117). -/
def checkIndex (i : Byte) (s : State) : Option Cause :=
  if s.configured then
    if shiftWidth s ≤ indexOperand i then some .invalidIndex else none
  else some .notInitialized

/-- INIT's checks: `ALREADY_INITIALIZED`, `INVALID_CHAIN_LENGTH`, `INVALID_PIN_ASSIGNMENT` (R114, R115, R116). -/
def checkInit (ds shcp stcp l : Byte) (s : State) : Option Cause :=
  if s.configured then some .alreadyInitialized
  else if l = 0 ∨ s.width.bits < 8 * l.toNat then some .invalidChainLength
  else if ds = shcp ∨ ds = stcp ∨ shcp = stcp then some .invalidPinAssignment
  else none

/-- The acceptance step after the word is known to be legal (R62): `CUR` and `CNT`, the check, then a check fault
(whose `FAULT_COUNT` is 0) or the command's body. -/
def dispatch (w : CmdWord) (check : State → Option Cause) (body : State → State) (s : State) : State :=
  match check (acceptWord w s) with
  | some c => raiseFault c 0 (acceptWord w s)
  | none => body (acceptWord w s)

end Sys2Proof.Machine
end

