-- ==== Sys2Proof/Machine/Sequencer.lean ====
section
/-! DEFINITION. The push sequencer: the micro-operation lists (R67, R80), the call each issues (R79) and the sequencer
step (R81). -/

namespace Sys2Proof.Machine

/-- `LowOps` (R80). -/
def lowOps : List MicroOp := [.llStcp, .llDs, .llShcp]

/-- `BitOps(i)` (R80). -/
def bitOps (i : Nat) : List MicroOp := [.shClkLo i, .shData i, .shClkHi i, .shDataLo i]

/-- `BitOps(n-1) ++ ... ++ BitOps(0)` (R80): most significant bit first (R39). -/
def shiftOps : Nat → List MicroOp
  | 0 => []
  | n + 1 => bitOps n ++ shiftOps n

/-- `HighOps(W)` (R80). -/
def highOps (w : Nat) : List MicroOp := shiftOps w ++ [.lhStcp]

/-- `PushOps(W)` (R80). -/
def pushOps (w : Nat) : List MicroOp := lowOps ++ highOps w

/-- `InitOps(W)` (R67). -/
def initOps (w : Nat) : List MicroOp := [.confDs, .confShcp, .confStcp] ++ pushOps w

/-- `CallOf`: the platform call of a micro-operation (R79). `R[i]` is read in the step that issues it. -/
def callOf (s : State) : MicroOp → PinCall
  | .confDs => .config (readDs s)
  | .confShcp => .config (readShcp s)
  | .confStcp => .config (readStcp s)
  | .llStcp => .write (readStcp s) false
  | .llDs => .write (readDs s) false
  | .llShcp => .write (readShcp s) false
  | .shClkLo _ => .write (readShcp s) false
  | .shData i => .write (readDs s) ((readMirror s).bit i)
  | .shClkHi _ => .write (readShcp s) true
  | .shDataLo _ => .write (readDs s) false
  | .lhStcp => .write (readStcp s) true

/-- A call is issued and answered (R81, R27, R30): the `io_*` outputs, the trace and the pin.
DESIGN CHOICE, safe: a write of an unconfigured pin, which no run makes, is as R81 says (notes/assumptions/10.md). -/
def issueCall (call : PinCall) (ok : Bool) (s : State) : State :=
  { s with
    ioCall := some call
    trace := s.trace ++ [⟨call, ok⟩]
    pins := applyEvent s.pins ⟨call, ok⟩
    ioFail := s.ioFail.tail }

/-- After an `ok` call: `CNT <- CNT + 1`, and the rest of the list or completion (R81, R63). `CNT` has 16 bits; no run
fills them (DESIGN CHOICE, safe, notes/assumptions/17.md). -/
def advance (rest : List MicroOp) (s : State) : State :=
  { s with cnt := s.cnt + 1, seq := seqOf rest, respValid := rest.isEmpty }

/-- The sequencer step on `RUN(op :: rest)` (R81); a failed call raises PLATFORM_IO_FAILURE (R118). -/
def seqStep (op : MicroOp) (rest : List MicroOp) (s : State) : State :=
  if ioFailNow s then raiseFault .platformIoFailure s.cnt (issueCall (callOf s op) false s)
  else advance rest (issueCall (callOf s op) true s)

end Sys2Proof.Machine
end

