-- ==== Sys2Proof/Machine/Init.lean ====
section
/-! DEFINITION. INIT (40_init.md): its acceptance step. The platform calls follow in `seqStep`. -/

namespace Sys2Proof.Machine

/-- INIT's body (R66): the configuration and `R` are stored before the first call (R68). -/
def initBody (ds shcp stcp l : Byte) (value : Data) (s : State) : State :=
  startSeq (initOps (8 * l.toNat)) (setMirror (dataOperand s value) (configure ds shcp stcp l s))

/-- INIT (R66 to R70). -/
def execInit (ds shcp stcp l : Byte) (value : Data) (s : State) : Host.Outcome State Fault Refusal :=
  .next (dispatch (encodeWord (.init ds shcp stcp l value)) (checkInit ds shcp stcp l)
    (initBody ds shcp stcp l value) s)

end Sys2Proof.Machine
end

