-- ==== Sys2Proof/Machine/Mirror.lean ====
section
/-! DEFINITION. The mirror commands (41_mirror.md): they complete in their acceptance step and touch no pin (R71). -/

namespace Sys2Proof.Machine

/-- TEST_BIT's body (R72): `RESULT <- zext_SW(R[i])`. -/
def testBitBody (i : Byte) (s : State) : State :=
  complete (setResult (Data.ofBit ((readMirror s).bit (indexOperand i))) s)

/-- TEST_BIT (R72). -/
def execTestBit (i : Byte) (s : State) : Host.Outcome State Fault Refusal :=
  .next (dispatch (encodeWord (.testBit i)) (checkIndex i) (testBitBody i) s)

/-- TEST_ALL's body (R73): `RESULT <- R`. -/
def testAllBody (s : State) : State := complete (setResult (readMirror s) s)

/-- TEST_ALL (R73). -/
def execTestAll (s : State) : Host.Outcome State Fault Refusal :=
  .next (dispatch (encodeWord .testAll) checkConfigured testAllBody s)

/-- WRITE_BIT's body (R74): `R[i] <- 1` if `v != 0`, else `R[i] <- 0`. -/
def writeBitBody (i : Byte) (v : Data) (s : State) : State :=
  complete (setMirror ((readMirror s).setBit (indexOperand i) (bitOperand s v)) s)

/-- WRITE_BIT (R74). -/
def execWriteBit (i : Byte) (v : Data) (s : State) : Host.Outcome State Fault Refusal :=
  .next (dispatch (encodeWord (.writeBit i v)) (checkIndex i) (writeBitBody i v) s)

/-- INVERT_BIT's body (R75): `R[i] <- 1 - R[i]`; its internal read does not write `RESULT`. -/
def invertBitBody (i : Byte) (s : State) : State :=
  complete (setMirror ((readMirror s).setBit (indexOperand i) (!(readMirror s).bit (indexOperand i))) s)

/-- INVERT_BIT (R75). -/
def execInvertBit (i : Byte) (s : State) : Host.Outcome State Fault Refusal :=
  .next (dispatch (encodeWord (.invertBit i)) (checkIndex i) (invertBitBody i) s)

end Sys2Proof.Machine
end

