-- ==== Sys2Proof/Machine/Push.lean ====
section
/-! DEFINITION. The pushing commands (42_push.md R78, R85 to R87): their acceptance steps, which issue no call. -/

namespace Sys2Proof.Machine

/-- WRITE_BITS's body (R87): `R <- v`, then a full push. -/
def writeBitsBody (v : Data) (s : State) : State :=
  startSeq (pushOps (shiftWidth s)) (setMirror (dataOperand s v) s)

/-- WRITE_BITS (R87). -/
def execWriteBits (v : Data) (s : State) : Host.Outcome State Fault Refusal :=
  .next (dispatch (encodeWord (.writeBits v)) checkConfigured (writeBitsBody v) s)

/-- LATCH_LOW (R85). -/
def execLatchLow (s : State) : Host.Outcome State Fault Refusal :=
  .next (dispatch (encodeWord .latchLow) checkConfigured (startSeq lowOps) s)

/-- LATCH_HIGH's body (R86). -/
def latchHighBody (s : State) : State := startSeq (highOps (shiftWidth s)) s

/-- LATCH_HIGH (R86). -/
def execLatchHigh (s : State) : Host.Outcome State Fault Refusal :=
  .next (dispatch (encodeWord .latchHigh) checkConfigured latchHighBody s)

end Sys2Proof.Machine
end

