-- ==== Sys2Proof/Machine/Dispatch.lean ====
section
/-! DEFINITION. The acceptance step of each command, one arm per constructor (R62). It does not look at `SEQ`: the engine
step calls it in `IDLE` only (DESIGN CHOICE, safe, notes/assumptions/14.md). -/

namespace Sys2Proof.Machine

/-- The acceptance step of a legal command (R61, R62). -/
def exec (i : Instr) (s : State) : Host.Outcome State Fault Refusal :=
  match i with
  | .init ds shcp stcp l value => Sys2Proof.Machine.execInit ds shcp stcp l value s
  | .testBit idx => Sys2Proof.Machine.execTestBit idx s
  | .testAll => Sys2Proof.Machine.execTestAll s
  | .writeBit idx v => Sys2Proof.Machine.execWriteBit idx v s
  | .invertBit idx => Sys2Proof.Machine.execInvertBit idx s
  | .writeBits v => Sys2Proof.Machine.execWriteBits v s
  | .latchLow => Sys2Proof.Machine.execLatchLow s
  | .latchHigh => Sys2Proof.Machine.execLatchHigh s

end Sys2Proof.Machine
end

