-- ==== Sys2Proof/Machine/Engine.lean ====
section
/-! DEFINITION. One engine step (R31, R120), and placing a command so that the next step accepts it. -/

namespace Sys2Proof.Machine

/-- An illegal word: RESERVED_ENCODING, with no other effect (R59, R112, R122). -/
def rejectWord (w : CmdWord) (s : State) : State := raiseFault .reservedEncoding 0 (acceptWord w s)

/-- The acceptance step of the command on the port (R61, R62). -/
def acceptStep (c : Command) (s : State) : Host.Outcome State Fault Refusal :=
  match decode c with
  | .ok i => exec i (takeCommand s)
  | .error _ => .next (rejectWord c.cmd (takeCommand s))

/-- One engine step: reset overrides everything (R120); else one micro-operation (R81), or one acceptance (R61), or
nothing (R123, R131). -/
def engineStep (s : State) : Host.Outcome State Fault Refusal :=
  if rstNow s then .next (resetAction (tick s))
  else
    match s.seq with
    | .run op rest => .next (seqStep op rest (tick s))
    | .faulted => .next (tick s)
    | .idle =>
      match presented s with
      | some c => acceptStep c (tick s)
      | none => .next (tick s)

/-- The `rst` inputs with no reset in the next step. -/
def noResetNext : List Bool → List Bool
  | [] => []
  | _ :: later => false :: later

/-- `s` with the command `c` at the port of an idle engine, so that the very next step accepts it. -/
def placeCommand (c : Command) (s : State) : State :=
  { s with seq := .idle, cause := .none, rst := noResetNext s.rst, host := .present c :: s.host }

end Sys2Proof.Machine
end

