-- ==== Sys2Proof/Machine/Step.lean ====
section
/-! DEFINITION. The host's step and the placing of an opcode-table word; both only call Machine/Engine.lean. -/

namespace Sys2Proof.Machine

/-- One engine step: one rising edge of `clk` (R31). -/
def step (s : State) : Host.Outcome State Fault Refusal := engineStep s

/-- `s` with the word of an opcode-table row on the command port of the idle engine (notes/assumptions/7.md). -/
def State.withFetchWord (s : State) (nbits w : Nat) : State := placeCommand (commandOfBits nbits w) s

end Sys2Proof.Machine
end

