-- ==== Sys2Proof/Machine/Asm.lean ====
section
/-! DEFINITION. The assembler syntax and the pseudo-instructions (30_encoding.md R64, R65): a source line, what it
assembles to, and its row of a program listing. -/

namespace Sys2Proof

/-- A source line with its numbers, before any range check (R64), and the three pseudo-instructions (R65). -/
inductive AsmLine where
  | init (ds shcp stcp l value : Nat)
  | testBit (i : Nat)
  | testAll
  | writeBit (i v : Nat)
  | invertBit (i : Nat)
  | writeBits (v : Nat)
  | latchLow
  | latchHigh
  | push
  | setBit (i : Nat)
  | clearBit (i : Nat)
deriving DecidableEq, Repr

/-- A number that must be at most 255: an index, a pin identifier or `L` (R64). -/
def asmByte (n : Nat) : Option Byte := if n ≤ 255 then some (BitVec.ofNat 8 n) else none

/-- A `value` or `v`, which must fit in `SW` bits (R64). -/
def asmData (w : StateWidth) (n : Nat) : Option Data := if n < 2 ^ w.bits then some (BitVec.ofNat 256 n) else none

/-- `writebit i, v` (R64), also the expansion of `setbit i` and `clearbit i` (R65). -/
def asmWriteBit (w : StateWidth) (i v : Nat) : Option (List Instr) :=
  match asmByte i, asmData w v with
  | some i, some v => some [.writeBit i v]
  | _, _ => none

/-- The commands of a source line (R64, R65); `none` where the assembler refuses it. -/
def assemble (w : StateWidth) : AsmLine → Option (List Instr)
  | .init ds shcp stcp l value =>
    match asmByte ds, asmByte shcp, asmByte stcp, asmByte l, asmData w value with
    | some ds, some shcp, some stcp, some l, some value => some [.init ds shcp stcp l value]
    | _, _, _, _, _ => none
  | .testBit i => (asmByte i).map (fun i => [.testBit i])
  | .testAll => some [.testAll]
  | .writeBit i v => asmWriteBit w i v
  | .invertBit i => (asmByte i).map (fun i => [.invertBit i])
  | .writeBits v => (asmData w v).map (fun v => [.writeBits v])
  | .latchLow => some [.latchLow]
  | .latchHigh => some [.latchHigh]
  | .push => some [.latchLow, .latchHigh]
  | .setBit i => asmWriteBit w i 1
  | .clearBit i => asmWriteBit w i 0

/-- A row of a program listing (R64): `CMD`, `DATA`, `CFG`; `none` is the `-` of an operand the command ignores. -/
structure ListingRow where
  cmd  : CmdWord
  data : Option Data
  cfg  : Option CfgWord
deriving DecidableEq, Repr

/-- The listing row of a command (R64). -/
def listingRow (i : Instr) : ListingRow := ⟨encodeWord i, encodeData i, encodeCfg i⟩

/-! ### The text of a line (R64): operands separated by commas, numbers in decimal, `0x` or `0b`.
Spaces around an operand are skipped; the letter case of digits is free, that of mnemonics is as written.
DESIGN CHOICE, safe, notes/assumptions/19.md. -/

/-- The value of a digit, in any base up to 16. -/
def digitValue (c : Char) : Option Nat :=
  let n := c.toNat
  if 48 ≤ n ∧ n ≤ 57 then some (n - 48)
  else if 97 ≤ n ∧ n ≤ 102 then some (n - 87)
  else if 65 ≤ n ∧ n ≤ 70 then some (n - 55)
  else none

/-- Digits of one base, after those read so far. -/
def digitsFrom (base acc : Nat) : List Char → Option Nat
  | [] => some acc
  | c :: rest =>
    match digitValue c with
    | some d => if d < base then digitsFrom base (acc * base + d) rest else none
    | none => none

/-- At least one digit. -/
def digits (base : Nat) : List Char → Option Nat
  | [] => none
  | cs => digitsFrom base 0 cs

/-- A number: decimal, `0x` hexadecimal or `0b` binary (R64). -/
def parseNumber : List Char → Option Nat
  | '0' :: 'x' :: rest => digits 16 rest
  | '0' :: 'b' :: rest => digits 2 rest
  | cs => digits 10 cs

/-- A text without the spaces at its ends. -/
def trimSpaces (cs : List Char) : List Char :=
  ((cs.dropWhile (· = ' ')).reverse.dropWhile (· = ' ')).reverse

/-- The parts of a text between commas. -/
def splitCommas : List Char → List (List Char)
  | [] => [[]]
  | c :: rest =>
    if c = ',' then [] :: splitCommas rest
    else
      match splitCommas rest with
      | [] => [[c]]
      | part :: parts => (c :: part) :: parts

/-- The numbers of an operand text; an empty text has none. -/
def parseOperands (cs : List Char) : Option (List Nat) :=
  if trimSpaces cs = [] then some []
  else (splitCommas cs).mapM (fun part => parseNumber (trimSpaces part))

/-- The line that a mnemonic and its operands make (R64, R65). -/
def asmLineOf (mnemonic : List Char) (operands : List Nat) : Option AsmLine :=
  match String.ofList mnemonic, operands with
  | "init", [ds, shcp, stcp, l, value] => some (.init ds shcp stcp l value)
  | "testbit", [i] => some (.testBit i)
  | "testall", [] => some .testAll
  | "writebit", [i, v] => some (.writeBit i v)
  | "invertbit", [i] => some (.invertBit i)
  | "writebits", [v] => some (.writeBits v)
  | "latchlow", [] => some .latchLow
  | "latchhigh", [] => some .latchHigh
  | "push", [] => some .push
  | "setbit", [i] => some (.setBit i)
  | "clearbit", [i] => some (.clearBit i)
  | _, _ => none

/-- One command per line (R64). -/
def parseLine (line : List Char) : Option AsmLine :=
  let cs := trimSpaces line
  match parseOperands (cs.dropWhile (· ≠ ' ')) with
  | some operands => asmLineOf (cs.takeWhile (· ≠ ' ')) operands
  | none => none

end Sys2Proof
end

