-- ==== Sys2Proof/Machine/Chain.lean ====
section
/-! DEFINITION. The reference model of the 74HC595-style chain (42_push.md R91 to R96): what the chain's stages hold, as
a function of the output trace. It is for observation only; the engine never reads it.
PRESUMED (the spec's own general-knowledge item G1), unsafe, notes/assumptions/12.md. -/

namespace Sys2Proof.Machine

/-- Which pins drive the chain, and its `8L` stages (R91). -/
structure Wiring where
  ds     : Byte
  shcp   : Byte
  stcp   : Byte
  stages : Nat
deriving DecidableEq, Repr

/-- The shift stage `S` and the output stage `Q`, stage 0 first (R91). -/
structure ChainState where
  shift : List Level
  out   : List Level
deriving DecidableEq, Repr

/-- All stages `X` at power-on (R91, R135). -/
def ChainState.powerOn (n : Nat) : ChainState := ⟨List.replicate n .x, List.replicate n .x⟩

/-- What R92 says of an event: no rising edge, one, or a draw between the two. -/
inductive Edge where
  | none | rising | either
deriving DecidableEq, Repr

/-- The rising edge an event makes on its pin, from the pin's level just before it (R92). -/
def edgeOf (pins : List (Nat × PinState)) (e : Event) : Edge :=
  if e.ok then
    match e.call with
    | .config _ => .none
    | .write _ false => .none
    | .write p true =>
      match (pinRead pins p.toNat).level with
      | .low => .rising
      | .high => .none
      | .x => .either
  else .either

/-- A rising edge of the shift-clock: every bit moves one stage on, and stage 0 takes the data line (R93). -/
def shiftEdge (d : Level) (c : ChainState) : ChainState :=
  { c with shift := (d :: c.shift).take c.shift.length }

/-- A rising edge of the latch-clock: `Q <- S`, all stages at once (R94). -/
def latchEdge (c : ChainState) : ChainState := { c with out := c.shift }

/-- What a rising edge of pin `p` does to the chain (R93, R94); other pins do nothing. -/
def edgeEffect (w : Wiring) (pins : List (Nat × PinState)) (p : Byte) (c : ChainState) : ChainState :=
  if p = w.shcp then shiftEdge (pinRead pins w.ds.toNat).level c
  else if p = w.stcp then latchEdge c
  else c

/-- The chain states one event leads to, from one chain state: two where the edge is a draw (R92). -/
def chainAfter (w : Wiring) (pins : List (Nat × PinState)) (e : Event) (c : ChainState) : List ChainState :=
  match edgeOf pins e with
  | .none => [c]
  | .rising => [edgeEffect w pins (callPin e.call) c]
  | .either => [c, edgeEffect w pins (callPin e.call) c]

/-- One event, on the pin levels it finds and the set of chain states (R95). -/
def chainStep (w : Wiring) (obs : List (Nat × PinState) × List ChainState) (e : Event) :
    List (Nat × PinState) × List ChainState :=
  (applyEvent obs.1 e, (obs.2.flatMap (chainAfter w obs.1 e)).dedup)

/-- `Chain(trace)` with the pin levels it tracks (R95, R27), from power-on. -/
def chainObservation (w : Wiring) (tr : List Event) : List (Nat × PinState) × List ChainState :=
  tr.foldl (chainStep w) ([], [ChainState.powerOn w.stages])

/-- `Chain(trace)`: the set of `(S, Q)` the trace can have reached, as a list without repeats (R95). -/
def chainStates (w : Wiring) (tr : List Event) : List ChainState := (chainObservation w tr).2

/-- The wiring that a state's chain configuration describes (R91). -/
def wiringOf (s : State) : Wiring := ⟨readDs s, readShcp s, readStcp s, shiftWidth s⟩

/-- Where bit `i` of `R` appears: output `Q_(i mod 8)` of IC `floor(i / 8)` (R96). -/
def outputOfBit (i : Nat) : Nat × Nat := (i / 8, i % 8)

end Sys2Proof.Machine
end

