-- ==== Sys2Proof/Safety.lean ====
section
/-! DEFINITION. What counts as a good state and a good run, in the terms the statements use: the state invariant, the
spec's `Check` written as R119 writes it, the conditions on the inputs, and the end of a run (R138). -/

namespace Sys2Proof.Machine

/-! ### The checks, written from R119 on the command's bits -/

/-- `Check(cmd, cfg)` of R119 in its own words; `none` is NONE. The meanings check the decoded operands instead. -/
def specCheck (c : Command) (s : State) : Option Cause :=
  let op := (c.cmd.extractLsb' 0 4).toNat
  let idx := c.cmd.extractLsb' 8 8
  let cfg := c.cfg
  if op = 0 ∨ 9 ≤ op ∨ c.cmd.extractLsb' 4 4 ≠ 0 then some .reservedEncoding
  else if idx ≠ 0 ∧ ¬ (op = 2 ∨ op = 4 ∨ op = 5) then some .reservedEncoding
  else if op = 1 then
    if s.configured = true then some .alreadyInitialized
    else if cfg.extractLsb' 24 8 = 0 ∨ s.width.bits < 8 * (cfg.extractLsb' 24 8).toNat then some .invalidChainLength
    else if cfg.extractLsb' 0 8 = cfg.extractLsb' 8 8 ∨ cfg.extractLsb' 0 8 = cfg.extractLsb' 16 8 ∨
        cfg.extractLsb' 8 8 = cfg.extractLsb' 16 8 then some .invalidPinAssignment
    else none
  else if s.configured = false then some .notInitialized
  else if (op = 2 ∨ op = 4 ∨ op = 5) ∧ 8 * (readL s).toNat ≤ idx.toNat then some .invalidIndex
  else none

/-! ### The state invariant -/

/-- An `SW`-bit register holds no bit at or above `SW` (R5); `⊥` holds none. -/
def fitsReg (w : StateWidth) : Option Data → Prop
  | none => True
  | some v => v.toNat < 2 ^ w.bits

/-- The chain configuration that INIT's checks let through (R6, R115, R116). -/
def ConfigLegal (s : State) : Prop :=
  ∃ ds shcp stcp l, s.cfgDs = some ds ∧ s.cfgShcp = some shcp ∧ s.cfgStcp = some stcp ∧ s.cfgL = some l ∧
    1 ≤ l.toNat ∧ 8 * l.toNat ≤ s.width.bits ∧ ds ≠ shcp ∧ ds ≠ stcp ∧ shcp ≠ stcp

/-- The micro-operation list of a pushing command, by its word (R80, R67); no other command has one. -/
def opsOfWord (w : CmdWord) (width : Nat) : List MicroOp :=
  if w = 1 then initOps width
  else if w = 6 then pushOps width
  else if w = 7 then lowOps
  else if w = 8 then highOps width
  else []

/-- The sequencer's position (R26): `CNT` micro-operations of the list of `CUR` are done, `SEQ` holds the others. -/
def SeqCoherent (s : State) : Prop :=
  match s.seq with
  | .run op rest =>
      s.configured = true ∧
        opsOfWord s.cur (shiftWidth s) = (opsOfWord s.cur (shiftWidth s)).take s.cnt.toNat ++ op :: rest
  | .idle => True
  | .faulted => True

/-- The three pins of the chain are outputs (R27). -/
def PinsConfigured (s : State) : Prop :=
  pinMode s (readDs s) = .output ∧ pinMode s (readShcp s) = .output ∧ pinMode s (readStcp s) = .output

/-- Where the engine may write pins, INIT has configured them (R28, R67): the configured engine at rest, the sequence of
a later command, and INIT's own sequence as far as its three `PinConfig` calls have answered `ok`. -/
def PinsReady (s : State) : Prop :=
  match s.seq with
  | .idle => s.configured = true → PinsConfigured s
  | .run _ _ =>
      if s.cur = 1 then
        (1 ≤ s.cnt.toNat → pinMode s (readDs s) = .output) ∧
          (2 ≤ s.cnt.toNat → pinMode s (readShcp s) = .output) ∧
            (3 ≤ s.cnt.toNat → pinMode s (readStcp s) = .output)
      else PinsConfigured s
  | .faulted => True

/-- `EngineInv`: what every state of a run from power-on satisfies. -/
structure EngineInv (s : State) : Prop where
  /-- `R` and `RESULT` are `SW` bits wide (R18, R25). -/
  mirrorFits : fitsReg s.width s.mirror
  resultFits : fitsReg s.width s.result
  /-- While `CONFIGURED = 1`, `R` and the configuration hold values, and the configuration is legal (R24, R115, R116). -/
  configLegal : s.configured = true → ConfigLegal s ∧ s.mirror ≠ none
  /-- While `CONFIGURED = 0`, `R`, the configuration and `RESULT` are `⊥` (R24, R113). -/
  unconfigured : s.configured = false →
    s.mirror = none ∧ s.cfgDs = none ∧ s.cfgShcp = none ∧ s.cfgStcp = none ∧ s.cfgL = none ∧ s.result = none
  /-- `CAUSE` is 0 exactly when `FAULT = 0` (R21). -/
  causeFault : s.cause = .none ↔ s.seq ≠ .faulted
  /-- The sequencer's list is what is left of the list of the command in `CUR` (R26, R81). -/
  seqCoherent : SeqCoherent s
  /-- No command sequence writes an unconfigured pin (R28). -/
  pinsReady : PinsReady s
  /-- The pin table is in canonical form, and is what the trace leaves from power-on (R27, R30). -/
  pinsCanonical : pinsWf s.pins = true
  pinsTrace : s.pins = pinsOfTrace s.trace

/-! ### Conditions on the inputs -/

/-- The next `n` platform calls are answered `ok` (R29). -/
def CallsOk (n : Nat) (s : State) : Prop := ∃ later, s.ioFail = List.replicate n false ++ later

/-- No reset in the next `n` steps (R31). -/
def NoReset (n : Nat) (s : State) : Prop := ∀ k, k < n → s.rst[k]?.getD false = false

/-- The engine is idle, the host presents `c` on the port, and this step is no reset. -/
def Presents (c : Command) (s : State) : Prop :=
  s.seq = .idle ∧ rstNow s = false ∧ presented s = some c

/-! ### Runs -/

/-- `n` engine steps. -/
def run : Nat → State → Host.Outcome State Fault Refusal
  | 0, s => .next s
  | n + 1, s =>
    match step s with
    | .next t => run n t
    | .fault r => .fault r
    | .refused r => .refused r

/-- Does the next step accept a command (R61)? -/
def accepts (s : State) : Bool := cmdReady s && !rstNow s && (presented s).isSome

/-- Did the step just taken complete a command (R63): `resp_valid = 1` with `SEQ = IDLE`? A fault answers with
`SEQ = FAULTED`, a reset does not answer. -/
def completes (s : State) : Bool := s.respValid && cmdReady s

/-- What holds where a run ends well (R138), but for its last command: `SEQ = IDLE`, `STATUS.FAULT = 0`, and the host has
no command left to present. -/
def atRest (s : State) : Bool := cmdReady s && !faultBit s && s.host.all (fun m => decide (m = .wait))

/-- `n` steps from `s` end well, where `unfinished` says that the last command before `s` has not completed. Accepting a
command leaves it unfinished until a step completes it; a fault or a reset that ends it does not. -/
def endsWellFrom : Nat → Bool → State → Bool
  | 0, unfinished, s => atRest s && !unfinished
  | n + 1, unfinished, s =>
    match step s with
    | .next t => endsWellFrom n ((unfinished || accepts s) && !completes t) t
    | .fault _ => false
    | .refused _ => false

/-- The end of a run (R138): `n` steps from `s` end well. A command in flight at `s`, or faulted there, counts as a
command of the run. DESIGN CHOICE, unsafe, notes/assumptions/20.md: R138 does not say what holds of a run in which no
command is presented; where the other conditions hold, it counts as ending well, and the past of an idle `s` is no part
of the run. -/
def endsWell (n : Nat) (s : State) : Bool := endsWellFrom n (!cmdReady s) s

/-- What the engine itself holds: everything but its inputs still to come. -/
def sameEngine (s t : State) : Prop :=
  t = { s with respValid := t.respValid, ioCall := t.ioCall, host := t.host, rst := t.rst, ioFail := t.ioFail }

/-- The calls a micro-operation list issues in state `s`, all answered `ok` (R79, R80). -/
def okEvents (s : State) (ops : List MicroOp) : List Event := ops.map (fun op => ⟨callOf s op, true⟩)

/-- Bits `n-1..0` of a value, as levels, bit 0 first. -/
def levelsOf (v : Data) (n : Nat) : List Level := (List.range n).map (fun i => levelOf (v.bit i))

/-! ### What a check fault leaves, written from R62 and R121 -/

/-- `s` after the command word `w` was accepted and a check raised `k` (R62, R121, R122). -/
def faultedBy (k : Cause) (w : CmdWord) (s : State) : State :=
  { s with
    cur := w, cnt := 0, cause := k, faultCmd := w, faultCount := 0, seq := .faulted, respValid := true }

/-! ### The traces of the pushing commands, written from R85, R86 and R66 -/

/-- `W(p, lvl)` answered `ok` (R15). -/
def okWrite (p : Byte) (lvl : Bool) : Event := ⟨.write p lvl, true⟩

/-- The trace of LATCH_LOW (R85). -/
def lowTrace (ds shcp stcp : Byte) : List Event := [okWrite stcp false, okWrite ds false, okWrite shcp false]

/-- The trace of LATCH_HIGH for a mirror `v`, `i` from `n-1` down to 0 (R86). -/
def highTrace (ds shcp stcp : Byte) (v : Data) (n : Nat) : List Event :=
  (List.range n).reverse.flatMap
      (fun i => [okWrite shcp false, okWrite ds (v.bit i), okWrite shcp true, okWrite ds false]) ++
    [okWrite stcp true]

/-- `C(p)` for the three pins, data, shift-clock, latch-clock (R67). -/
def configTrace (ds shcp stcp : Byte) : List Event :=
  [⟨.config ds, true⟩, ⟨.config shcp, true⟩, ⟨.config stcp, true⟩]

/-! ### Counts (R70, R88, R149) -/

/-- `W` as a command uses it: INIT's own `L`, else the configured one (R66, R20). -/
def widthFor (i : Instr) (s : State) : Nat :=
  match i with
  | .init _ _ _ l _ => 8 * l.toNat
  | .testBit _ => shiftWidth s
  | .testAll => shiftWidth s
  | .writeBit _ _ => shiftWidth s
  | .invertBit _ => shiftWidth s
  | .writeBits _ => shiftWidth s
  | .latchLow => shiftWidth s
  | .latchHigh => shiftWidth s

/-- The chain's wiring as a command uses it: INIT's own operands, else the configuration (R91, R66, R20). -/
def wiringFor (i : Instr) (s : State) : Wiring :=
  match i with
  | .init ds shcp stcp l _ => ⟨ds, shcp, stcp, 8 * l.toNat⟩
  | .testBit _ => wiringOf s
  | .testAll => wiringOf s
  | .writeBit _ _ => wiringOf s
  | .invertBit _ => wiringOf s
  | .writeBits _ => wiringOf s
  | .latchLow => wiringOf s
  | .latchHigh => wiringOf s

/-- How many platform calls a command issues at shift width `w` (R149). -/
def callsOf (i : Instr) (w : Nat) : Nat :=
  match i with
  | .init _ _ _ _ _ => 4 * w + 7
  | .testBit _ => 0
  | .testAll => 0
  | .writeBit _ _ => 0
  | .invertBit _ => 0
  | .writeBits _ => 4 * w + 4
  | .latchLow => 3
  | .latchHigh => 4 * w + 1

/-- The columns of R88's table. -/
inductive CallColumn where
  | config | dataBit | dataLow | shiftClock | latchHigh | latchLow
deriving DecidableEq, Repr

/-- The column of R88 a micro-operation is counted in. -/
def columnOf : MicroOp → CallColumn
  | .confDs => .config
  | .confShcp => .config
  | .confStcp => .config
  | .llStcp => .latchLow
  | .llDs => .dataLow
  | .llShcp => .shiftClock
  | .shClkLo _ => .shiftClock
  | .shData _ => .dataBit
  | .shClkHi _ => .shiftClock
  | .shDataLo _ => .dataLow
  | .lhStcp => .latchHigh

/-- How many micro-operations of a list are in a column. -/
def columnCount (col : CallColumn) (ops : List MicroOp) : Nat := ops.countP (fun op => decide (columnOf op = col))

end Sys2Proof.Machine
end

