-- ==== Sys2Proof/Certificates/Slice0/Obligations.lean ====
section
/-! DEFINITION. The statements for the provers. Each says which rule of spec/ it formalises; OBLIGATIONS.json lists them. -/

open Sys2Proof Sys2Proof.Machine

/-! ## Reset and power-on -/

/-- R132, R133, R35: what a step with `rst = 1` leaves, whatever `SEQ` holds. The pins, the trace (and with it the
chain) are untouched, no call is issued, and a command on the port still waits. -/
def Obligations.ResetStepLeavesResetValues : Prop :=
  ∀ s : State, rstNow s = true →
    ∃ t, step s = .next t ∧
      t.seq = .idle ∧ t.cur = 0 ∧ t.cnt = 0 ∧ status t = 0x00#8 ∧ t.configured = false ∧ t.cause = .none ∧
      t.faultCmd = 0 ∧ t.faultCount = 0 ∧ t.mirror = none ∧ t.cfgDs = none ∧ t.cfgShcp = none ∧ t.cfgStcp = none ∧
      t.cfgL = none ∧ t.result = none ∧ t.respValid = false ∧ t.ioCall = none ∧
      t.pins = s.pins ∧ t.trace = s.trace ∧ (∀ w, chainStates w t.trace = chainStates w s.trace) ∧
      t.ioFail = s.ioFail ∧ t.width = s.width ∧ (∀ c, presented s = some c → presented t = some c)

/-- R135: power-on, at every state width; and `State.reset` is a power-on state. -/
def Obligations.PowerOnIsResetWithUnknownPins : Prop :=
  (∀ w : StateWidth,
    let s := State.powerOn w
    s.seq = .idle ∧ s.cur = 0 ∧ s.cnt = 0 ∧ status s = 0x00#8 ∧ s.faultCmd = 0 ∧ s.faultCount = 0 ∧
      s.mirror = none ∧ s.cfgDs = none ∧ s.cfgShcp = none ∧ s.cfgStcp = none ∧ s.cfgL = none ∧ s.result = none ∧
      s.respValid = false ∧ s.ioCall = none ∧ s.width = w ∧
      (∀ p, pinMode s p = .unconfigured ∧ pinLevel s p = .x) ∧ s.trace = [] ∧
      ∀ wi, chainStates wi s.trace = [ChainState.powerOn wi.stages]) ∧
  ∃ w, State.reset = State.powerOn w

/-- R150: one step with `rst = 1` is enough (R132's action is done in it), and a second one repeats the action and changes
nothing more. -/
def Obligations.HoldingResetChangesNothingMore : Prop :=
  ∀ s : State, rstNow s = true →
    ∃ t, step s = .next t ∧ sameEngine (resetAction s) t ∧ t.respValid = false ∧ t.ioCall = none ∧
      (rstNow t = true →
        ∃ u, step t = .next u ∧ sameEngine t u ∧ u.respValid = t.respValid ∧ u.ioCall = t.ioCall)

/-- R134: reset during a sequence drops the rest of it: no event is added, the pins keep their levels, and the command
produces no completion, then or in the steps after. -/
def Obligations.ResetDropsTheSequence : Prop :=
  ∀ (s : State) (op : MicroOp) (rest : List MicroOp), s.seq = .run op rest → rstNow s = true →
    ∃ t, step s = .next t ∧ t.seq = .idle ∧ t.respValid = false ∧ t.trace = s.trace ∧ t.pins = s.pins ∧
      ∀ n, NoReset n t → (∀ m, m ∈ t.host → m = .wait) →
        ∃ u, run n t = .next u ∧ u.respValid = false ∧ u.trace = s.trace ∧ u.pins = s.pins

/-! ## The engine step -/

/-- R61, R62: when the command on the port of the idle engine decodes to `i`, the step is `exec i` on the state with
this step's inputs used up, the command taken and the one-step outputs cleared. -/
def Obligations.StepRunsDecodedInstruction : Prop :=
  ∀ (s : State) (c : Command) (i : Instr), Presents c s → decode c = .ok i →
    step s = exec i { s with rst := s.rst.tail, host := s.host.tail, respValid := false, ioCall := none }

/-- R112: an illegal word (R59) raises RESERVED_ENCODING in its acceptance step, and nothing else happens. -/
def Obligations.IllegalWordRaisesReservedEncoding : Prop :=
  ∀ (s : State) (c : Command), Presents c s →
    ((c.cmd.extractLsb' 0 4).toNat = 0 ∨ 9 ≤ (c.cmd.extractLsb' 0 4).toNat ∨ c.cmd.extractLsb' 4 4 ≠ 0 ∨
      (c.cmd.extractLsb' 8 8 ≠ 0 ∧ (c.cmd.extractLsb' 0 4).toNat ≠ 2 ∧ (c.cmd.extractLsb' 0 4).toNat ≠ 4 ∧
        (c.cmd.extractLsb' 0 4).toNat ≠ 5)) →
    step s = .next (faultedBy .reservedEncoding c.cmd
      { s with rst := s.rst.tail, host := s.host.tail, ioCall := none })

/-- R119: the acceptance step reports the first check that applies, and at most one cause; a command no check stops does
not fault. `specCheck` is R119's `Check` on the bits of the command. -/
def Obligations.AcceptanceReportsFirstFailingCheck : Prop :=
  ∀ (s : State) (c : Command), Presents c s →
    match specCheck c s with
    | some k => k ≠ .none ∧
        step s = .next (faultedBy k c.cmd { s with rst := s.rst.tail, host := s.host.tail, ioCall := none })
    | none => ∃ i t, decode c = .ok i ∧ encodeWord i = c.cmd ∧ step s = .next t ∧
        t.seq ≠ .faulted ∧ t.cause = s.cause ∧ t.faultCmd = s.faultCmd ∧ t.faultCount = s.faultCount ∧
        t.cur = c.cmd ∧ t.cnt = 0

/-- R131: an idle engine without a command, and a faulted engine, do nothing; a command on a faulted engine's port waits. -/
def Obligations.IdleAndFaultedDoNothing : Prop :=
  ∀ s : State, rstNow s = false → (s.seq = .faulted ∨ s.seq = .idle ∧ presented s = none) →
    ∃ t, step s = .next t ∧ sameEngine s t ∧ t.respValid = false ∧ t.ioCall = none ∧ t.ioFail = s.ioFail ∧
      (∀ c, presented s = some c → t.host = s.host)

/-- R123: a faulted engine accepts nothing, issues nothing and changes nothing, for as long as no reset comes; a reset
leaves the faulted state. -/
def Obligations.FaultedUntilReset : Prop :=
  (∀ (n : Nat) (s : State), s.seq = .faulted → NoReset n s →
    ∃ t, run n s = .next t ∧ sameEngine s t ∧ t.ioFail = s.ioFail ∧
      (∀ c rest, s.host = .present c :: rest → t.host = s.host)) ∧
  (∀ s : State, s.seq = .faulted → rstNow s = true → ∃ t, step s = .next t ∧ t.seq = .idle)

/-- R61, R144: a presented command is taken exactly in the step that accepts it, and waits in every other. The host as a
list of moves is the model's choice (notes/assumptions/6.md). -/
def Obligations.CommandWaitsUntilAccepted : Prop :=
  ∀ (s t : State) (c : Command) (later : List HostMove), s.host = .present c :: later → step s = .next t →
    t.host = (if s.seq = .idle ∧ rstNow s = false then later else s.host)

/-- R47, R120, R30: a step issues at most one platform call, records it as the last event of the trace, and only a step
of a running sequence issues one; the trace never loses or changes an event. -/
def Obligations.AtMostOneCallPerStep : Prop :=
  ∀ s t : State, step s = .next t →
    (t.ioCall = none ∧ t.trace = s.trace ∧ t.pins = s.pins) ∨
      (∃ op rest ok, s.seq = .run op rest ∧ rstNow s = false ∧ t.ioCall = some (callOf s op) ∧
        t.trace = s.trace ++ [⟨callOf s op, ok⟩] ∧ t.host = hostAfterStep s.host)

/-- The engine always takes a step. That every fault of the spec (R110, R121) is a next state, and that the model so has
no stop, is the model's reading (DEDUCED, notes/assumptions/13.md). -/
def Obligations.EveryStepAnswersNext : Prop :=
  (∀ s : State, ∃ t, step s = .next t) ∧ ∀ (i : Instr) (s : State), ∃ t, exec i s = .next t

/-- R81: the sequencer step, with the call answered `ok` and with the call failed; and a step of an idle engine has
`io_valid = 0`. -/
def Obligations.SequencerStepIssuesHead : Prop :=
  (∀ (s : State) (op : MicroOp) (rest : List MicroOp), s.seq = .run op rest → rstNow s = false →
    (ioFailNow s = false →
      step s = .next { s with
        rst := s.rst.tail, host := hostAfterStep s.host, ioFail := s.ioFail.tail
        ioCall := some (callOf s op), trace := s.trace ++ [⟨callOf s op, true⟩]
        pins := applyEvent s.pins ⟨callOf s op, true⟩
        cnt := s.cnt + 1, seq := seqOf rest, respValid := decide (rest = []) }) ∧
    (ioFailNow s = true →
      step s = .next { s with
        rst := s.rst.tail, host := hostAfterStep s.host, ioFail := s.ioFail.tail
        ioCall := some (callOf s op), trace := s.trace ++ [⟨callOf s op, false⟩]
        pins := applyEvent s.pins ⟨callOf s op, false⟩
        cause := .platformIoFailure, faultCmd := s.cur, faultCount := s.cnt, seq := .faulted, respValid := true })) ∧
  (∀ s t : State, s.seq = .idle → step s = .next t → t.ioCall = none)

/-- R118: a failed call ends the command with PLATFORM_IO_FAILURE, the count of the calls that returned `ok`, and its pin
at level `X`; no later call is issued. -/
def Obligations.FailedCallEndsTheCommand : Prop :=
  ∀ (s : State) (op : MicroOp) (rest : List MicroOp), s.seq = .run op rest → rstNow s = false →
    ioFailNow s = true → pinsWf s.pins = true →
    ∃ t, step s = .next t ∧ t.cause = .platformIoFailure ∧ t.faultCount = s.cnt ∧ t.faultCmd = s.cur ∧
      t.seq = .faulted ∧ t.respValid = true ∧ pinLevel t (callPin (callOf s op)) = .x ∧
      (∀ p, pinMode t p = pinMode s p) ∧ (∀ p, p ≠ callPin (callOf s op) → pinLevel t p = pinLevel s p) ∧
      t.mirror = s.mirror ∧ t.cfgDs = s.cfgDs ∧ t.cfgShcp = s.cfgShcp ∧ t.cfgStcp = s.cfgStcp ∧ t.cfgL = s.cfgL ∧
      t.configured = s.configured ∧ t.result = s.result ∧ t.trace = s.trace ++ [⟨callOf s op, false⟩] ∧
      ∀ n, NoReset n t → ∃ u, run n t = .next u ∧ u.trace = t.trace ∧ u.seq = .faulted

/-! ## Encoding -/

/-- R54, R55, R58, R64: every command that fits the engine's `SW`-bit bus is decoded, from its word and its buses, to
itself: no operand bit is lost. -/
def Obligations.DecodeOfEncodeIsTheCommand : Prop :=
  ∀ (w : StateWidth) (i : Instr), i.wellFormed w = true → decode (onBus w (encode i)) = .ok i

/-- R54, R59: each legal word has one meaning: the word and the operand buses a command uses are those it was decoded from. -/
def Obligations.EncodeOfDecodeIsTheWord : Prop :=
  ∀ (c : Command) (i : Instr), decode c = .ok i →
    encodeWord i = c.cmd ∧ (encodeData i = none ∨ encodeData i = some c.data) ∧
      (encodeCfg i = none ∨ encodeCfg i = some c.cfg)

/-- R59: which words are legal, and that there are 773 of them. -/
def Obligations.LegalWordsAndTheirNumber : Prop :=
  (∀ w : CmdWord, legalWord w = true ↔
    ((w.extractLsb' 4 4 = 0) ∧
      ((w.extractLsb' 0 4).toNat = 2 ∨ (w.extractLsb' 0 4).toNat = 4 ∨ (w.extractLsb' 0 4).toNat = 5 ∨
        (w.extractLsb' 8 8 = 0 ∧ 1 ≤ (w.extractLsb' 0 4).toNat ∧ (w.extractLsb' 0 4).toNat ≤ 8)))) ∧
  ∃ words : List CmdWord, words.Nodup ∧ words.length = 773 ∧ ∀ w, w ∈ words ↔ legalWord w = true

/-- R57, R58: the opcode map and the operand fields of each command; buses a command does not use are ignored. -/
def Obligations.OpcodeMapAndOperandFields : Prop :=
  ∀ (i : Byte) (d : Data) (g : CfgWord),
    decode ⟨0x0001, d, g⟩ =
      .ok (.init (g.extractLsb' 0 8) (g.extractLsb' 8 8) (g.extractLsb' 16 8) (g.extractLsb' 24 8) d) ∧
    decode ⟨i ++ 0x02#8, d, g⟩ = .ok (.testBit i) ∧
    decode ⟨0x0003, d, g⟩ = .ok .testAll ∧
    decode ⟨i ++ 0x04#8, d, g⟩ = .ok (.writeBit i d) ∧
    decode ⟨i ++ 0x05#8, d, g⟩ = .ok (.invertBit i) ∧
    decode ⟨0x0006, d, g⟩ = .ok (.writeBits d) ∧
    decode ⟨0x0007, d, g⟩ = .ok .latchLow ∧
    decode ⟨0x0008, d, g⟩ = .ok .latchHigh ∧
    ∀ op : BitVec 4, op = 0 ∨ 9 ≤ op.toNat → decode ⟨i ++ (0x0#4 ++ op), d, g⟩ = .error .reservedOpcode

/-- 95_test_vectors.md V1, V2, V3, E1 to E5, E8, P-1, P-3 and program P1: words written out from the spec decode to what they stand for. -/
def Obligations.SpecWordsDecode : Prop :=
  decode ⟨0x0001, 0x3, 0x01040302⟩ = .ok (.init 2 3 4 1 3) ∧
  decode ⟨0x0502, 0, 0⟩ = .ok (.testBit 5) ∧
  decode ⟨0x0003, 0, 0⟩ = .ok .testAll ∧
  decode ⟨0x0504, 1, 0⟩ = .ok (.writeBit 5 1) ∧
  decode ⟨0x0105, 0, 0⟩ = .ok (.invertBit 1) ∧
  decode ⟨0x0006, 0xFF, 0⟩ = .ok (.writeBits 0xFF) ∧
  decode ⟨0x0007, 0, 0⟩ = .ok .latchLow ∧
  decode ⟨0x0008, 0, 0⟩ = .ok .latchHigh ∧
  decode ⟨0x0000, 0, 0⟩ = .error .reservedOpcode ∧
  decode ⟨0x0009, 0, 0⟩ = .error .reservedOpcode ∧
  decode ⟨0x000F, 0, 0⟩ = .error .reservedOpcode ∧
  decode ⟨0x0012, 0, 0⟩ = .error .reservedField ∧
  decode ⟨0x0103, 0, 0⟩ = .error .strayIndex ∧
  decode ⟨0x0101, 0, 0⟩ = .error .strayIndex

/-- R65: the pseudo-instructions and their expansions. -/
def Obligations.PseudoInstructionExpansions : Prop :=
  ∀ (w : StateWidth) (i : Nat),
    assemble w .push = some [.latchLow, .latchHigh] ∧
    assemble w (.setBit i) = assemble w (.writeBit i 1) ∧
    assemble w (.clearBit i) = assemble w (.writeBit i 0)

/-- R64: what the assembler refuses, and the words and buses of what it accepts, for all eight rows of the syntax table. -/
def Obligations.AssemblerWordsAndRefusals : Prop :=
  ∀ (w : StateWidth),
    (∀ ds shcp stcp l v : Nat,
      if ds ≤ 255 ∧ shcp ≤ 255 ∧ stcp ≤ 255 ∧ l ≤ 255 ∧ v < 2 ^ w.bits then
        ∃ i, assemble w (.init ds shcp stcp l v) = some [i] ∧ encodeWord i = 0x0001 ∧
          (encode i).data.toNat = v ∧
          (encode i).cfg.toNat = l * 2 ^ 24 + stcp * 2 ^ 16 + shcp * 2 ^ 8 + ds
      else assemble w (.init ds shcp stcp l v) = none) ∧
    (∀ i v : Nat,
      if i ≤ 255 ∧ v < 2 ^ w.bits then
        ∃ j, assemble w (.writeBit i v) = some [j] ∧ (encodeWord j).toNat = i * 2 ^ 8 + 0x04 ∧
          (encode j).data.toNat = v
      else assemble w (.writeBit i v) = none) ∧
    (∀ i : Nat,
      if i ≤ 255 then
        (∃ j, assemble w (.testBit i) = some [j] ∧ (encodeWord j).toNat = i * 2 ^ 8 + 0x02) ∧
          (∃ j, assemble w (.invertBit i) = some [j] ∧ (encodeWord j).toNat = i * 2 ^ 8 + 0x05)
      else assemble w (.testBit i) = none ∧ assemble w (.invertBit i) = none) ∧
    (∀ v : Nat,
      if v < 2 ^ w.bits then
        ∃ j, assemble w (.writeBits v) = some [j] ∧ encodeWord j = 0x0006 ∧ (encode j).data.toNat = v
      else assemble w (.writeBits v) = none) ∧
    (∃ j, assemble w .testAll = some [j] ∧ encodeWord j = 0x0003) ∧
    (∃ j, assemble w .latchLow = some [j] ∧ encodeWord j = 0x0007) ∧
    (∃ j, assemble w .latchHigh = some [j] ∧ encodeWord j = 0x0008) ∧
    (∀ line is, assemble w line = some is → ∀ i ∈ is, i.wellFormed w = true)

/-! ## Check faults -/

/-- R113: every command but INIT faults with NOT_INITIALIZED while `CONFIGURED = 0`. -/
def Obligations.CommandsBeforeInitFault : Prop :=
  ∀ (i : Instr) (s : State), (∀ ds shcp stcp l v, i ≠ .init ds shcp stcp l v) → s.configured = false →
    exec i s = .next (faultedBy .notInitialized (encodeWord i) s)

/-- R114: INIT faults with ALREADY_INITIALIZED while `CONFIGURED = 1`, whatever its operands, and changes nothing. -/
def Obligations.SecondInitFaults : Prop :=
  ∀ (ds shcp stcp l : Byte) (v : Data) (s : State), s.configured = true →
    exec (.init ds shcp stcp l v) s = .next (faultedBy .alreadyInitialized 0x0001 s)

/-- R115: INIT with `L = 0` or `8 * L > SW` faults with INVALID_CHAIN_LENGTH (and it outranks the pin check, R119). -/
def Obligations.BadChainLengthFaults : Prop :=
  ∀ (ds shcp stcp l : Byte) (v : Data) (s : State), s.configured = false →
    (l = 0 ∨ 8 * l.toNat > s.width.bits) →
    exec (.init ds shcp stcp l v) s = .next (faultedBy .invalidChainLength 0x0001 s)

/-- R116: INIT with two equal pin identifiers faults with INVALID_PIN_ASSIGNMENT. -/
def Obligations.EqualPinsFault : Prop :=
  ∀ (ds shcp stcp l : Byte) (v : Data) (s : State), s.configured = false →
    l ≠ 0 → 8 * l.toNat ≤ s.width.bits → (ds = shcp ∨ ds = stcp ∨ shcp = stcp) →
    exec (.init ds shcp stcp l v) s = .next (faultedBy .invalidPinAssignment 0x0001 s)

/-- R117: TEST_BIT, WRITE_BIT and INVERT_BIT fault with INVALID_INDEX when `i >= W`. -/
def Obligations.IndexOutOfRangeFaults : Prop :=
  ∀ (i : Byte) (v : Data) (s : State), s.configured = true → shiftWidth s ≤ i.toNat →
    exec (.testBit i) s = .next (faultedBy .invalidIndex (i ++ 0x02#8) s) ∧
    exec (.writeBit i v) s = .next (faultedBy .invalidIndex (i ++ 0x04#8) s) ∧
    exec (.invertBit i) s = .next (faultedBy .invalidIndex (i ++ 0x05#8) s)

/-- R121, R111: fault entry, its effect on the outputs, and the cause code it shows. -/
def Obligations.FaultEntryWritesTheRecord : Prop :=
  ∀ (c : Cause) (count : BitVec 16) (s : State),
    raiseFault c count s =
      { s with cause := c, faultCmd := s.cur, faultCount := count, seq := .faulted, respValid := true } ∧
    (let p := ports (raiseFault c count s)
     p.fault = true ∧ p.cmdReady = false ∧ p.respValid = true ∧ p.faultCmd = s.cur ∧ p.faultCount = count ∧
       p.result = s.result ∧ p.status.getLsbD 2 = true ∧ p.status.getLsbD 1 = false ∧
       p.status.extractLsb' 4 4 =
         (match c with
          | .none => 0
          | .reservedEncoding => 1
          | .notInitialized => 2
          | .alreadyInitialized => 3
          | .invalidChainLength => 4
          | .invalidPinAssignment => 5
          | .invalidIndex => 6
          | .platformIoFailure => 7))

/-- R122: a check fault has written no register but `CUR`, `CNT` and the fault record, and issued no call. -/
def Obligations.CheckFaultIsPrecise : Prop :=
  ∀ (i : Instr) (s t : State), exec i s = .next t → t.seq = .faulted → t = faultedBy t.cause (encodeWord i) s

/-! ## The eight commands -/

/-- R66: INIT's acceptance step, when its checks pass: the configuration, `CONFIGURED` and `R` are written, and the
sequencer starts `InitOps(8 * L)`; nothing else changes. -/
def Obligations.InitStoresAndStartsThePush : Prop :=
  ∀ (ds shcp stcp l : Byte) (v : Data) (s : State), s.configured = false →
    1 ≤ l.toNat → 8 * l.toNat ≤ s.width.bits → ds ≠ shcp → ds ≠ stcp → shcp ≠ stcp → Data.fits s.width v = true →
    exec (.init ds shcp stcp l v) s = .next { s with
      cur := 0x0001, cnt := 0, cfgDs := some ds, cfgShcp := some shcp, cfgStcp := some stcp, cfgL := some l
      configured := true, mirror := some v
      seq := .run .confDs ([.confShcp, .confStcp] ++ pushOps (8 * l.toNat)) }

/-- R72: TEST_BIT, its result, its exceptions and everything it leaves unchanged. -/
def Obligations.TestBitReadsOneBit : Prop :=
  ∀ (i : Byte) (s : State),
    (s.configured = true → i.toNat < shiftWidth s →
      exec (.testBit i) s = .next { s with
        cur := i ++ 0x02#8, cnt := 0, result := some (if (readMirror s).getLsbD i.toNat then 1 else 0)
        seq := .idle, respValid := true }) ∧
    (s.configured = false → exec (.testBit i) s = .next (faultedBy .notInitialized (i ++ 0x02#8) s)) ∧
    (s.configured = true → shiftWidth s ≤ i.toNat →
      exec (.testBit i) s = .next (faultedBy .invalidIndex (i ++ 0x02#8) s)) ∧
    (∀ c : Command, Presents c s → c.cmd.extractLsb' 0 4 = 2 → c.cmd.extractLsb' 4 4 ≠ 0 →
      ∃ t, step s = .next t ∧ t.seq = .faulted ∧ t.cause = .reservedEncoding)

/-- R73: TEST_ALL, its result, its exceptions and everything it leaves unchanged. -/
def Obligations.TestAllReadsTheMirror : Prop :=
  ∀ s : State,
    (s.configured = true →
      exec .testAll s = .next { s with
        cur := 0x0003, cnt := 0, result := some (readMirror s), seq := .idle, respValid := true }) ∧
    (s.configured = false → exec .testAll s = .next (faultedBy .notInitialized 0x0003 s)) ∧
    (∀ c : Command, Presents c s → c.cmd.extractLsb' 0 4 = 3 → c.cmd ≠ 0x0003 →
      ∃ t, step s = .next t ∧ t.seq = .faulted ∧ t.cause = .reservedEncoding)

/-- R74: WRITE_BIT writes `R[i] <- (DATA != 0)` over all `SW` bits of `DATA`, and no other bit; its exceptions and
everything it leaves unchanged. -/
def Obligations.WriteBitWritesOneBit : Prop :=
  ∀ (i : Byte) (v : Data) (s : State),
    (s.configured = true → i.toNat < shiftWidth s → Data.fits s.width v = true →
      ∃ m, exec (.writeBit i v) s = .next { s with
          cur := i ++ 0x04#8, cnt := 0, mirror := some m, seq := .idle, respValid := true } ∧
        ∀ j, m.getLsbD j = if j = i.toNat then decide (v ≠ 0) else (readMirror s).getLsbD j) ∧
    (s.configured = false → exec (.writeBit i v) s = .next (faultedBy .notInitialized (i ++ 0x04#8) s)) ∧
    (s.configured = true → shiftWidth s ≤ i.toNat →
      exec (.writeBit i v) s = .next (faultedBy .invalidIndex (i ++ 0x04#8) s)) ∧
    (∀ c : Command, Presents c s → c.cmd.extractLsb' 0 4 = 4 → c.cmd.extractLsb' 4 4 ≠ 0 →
      ∃ t, step s = .next t ∧ t.seq = .faulted ∧ t.cause = .reservedEncoding)

/-- R75: INVERT_BIT complements `R[i]` and no other bit, does not write `RESULT`, and is its own inverse; its exceptions and
everything it leaves unchanged. -/
def Obligations.InvertBitComplementsOneBit : Prop :=
  ∀ (i : Byte) (s : State),
    (s.configured = true → i.toNat < shiftWidth s →
      ∃ m, exec (.invertBit i) s = .next { s with
          cur := i ++ 0x05#8, cnt := 0, mirror := some m, seq := .idle, respValid := true } ∧
        (∀ j, m.getLsbD j = if j = i.toNat then !(readMirror s).getLsbD j else (readMirror s).getLsbD j) ∧
        (∀ t, t.configured = true → shiftWidth t = shiftWidth s → readMirror t = m →
          ∃ u, exec (.invertBit i) t = .next u ∧ readMirror u = readMirror s)) ∧
    (s.configured = false → exec (.invertBit i) s = .next (faultedBy .notInitialized (i ++ 0x05#8) s)) ∧
    (s.configured = true → shiftWidth s ≤ i.toNat →
      exec (.invertBit i) s = .next (faultedBy .invalidIndex (i ++ 0x05#8) s)) ∧
    (∀ c : Command, Presents c s → c.cmd.extractLsb' 0 4 = 5 → c.cmd.extractLsb' 4 4 ≠ 0 →
      ∃ t, step s = .next t ∧ t.seq = .faulted ∧ t.cause = .reservedEncoding)

/-- R87: WRITE_BITS's acceptance step: `R <- v`, all `SW` bits, and the sequencer starts `PushOps(W)`. -/
def Obligations.WriteBitsReplacesTheMirror : Prop :=
  ∀ (v : Data) (s : State), s.configured = true → Data.fits s.width v = true →
    exec (.writeBits v) s = .next { s with
      cur := 0x0006, cnt := 0, mirror := some v
      seq := .run .llStcp ([.llDs, .llShcp] ++ highOps (shiftWidth s)) }

/-- R85: LATCH_LOW's acceptance step starts `LowOps`. -/
def Obligations.LatchLowStartsLowOps : Prop :=
  ∀ s : State, s.configured = true →
    exec .latchLow s = .next { s with cur := 0x0007, cnt := 0, seq := .run .llStcp [.llDs, .llShcp] }

/-- R86: LATCH_HIGH's acceptance step starts `HighOps(W)`. -/
def Obligations.LatchHighStartsHighOps : Prop :=
  ∀ s : State, s.configured = true → 1 ≤ shiftWidth s →
    exec .latchHigh s = .next { s with
      cur := 0x0008, cnt := 0
      seq := .run (.shClkLo (shiftWidth s - 1))
        ([.shData (shiftWidth s - 1), .shClkHi (shiftWidth s - 1), .shDataLo (shiftWidth s - 1)] ++
          highOps (shiftWidth s - 1)) }

/-- R62, R121: what no command's acceptance step ever changes: `SW`, the pins, the trace, the platform port and the
inputs still to come; and which registers each command may write. -/
def Obligations.AcceptanceFrame : Prop :=
  ∀ (i : Instr) (s t : State), exec i s = .next t →
    t.width = s.width ∧ t.pins = s.pins ∧ t.trace = s.trace ∧ t.ioCall = s.ioCall ∧ t.host = s.host ∧
    t.rst = s.rst ∧ t.ioFail = s.ioFail ∧ t.cur = encodeWord i ∧ t.cnt = 0 ∧
    (∀ p, pinMode t p = pinMode s p ∧ pinLevel t p = pinLevel s p) ∧
    ((∀ ds shcp stcp l v, i ≠ .init ds shcp stcp l v) →
      t.cfgDs = s.cfgDs ∧ t.cfgShcp = s.cfgShcp ∧ t.cfgStcp = s.cfgStcp ∧ t.cfgL = s.cfgL ∧
        t.configured = s.configured) ∧
    ((∀ x, i ≠ .testBit x) → i ≠ .testAll → t.result = s.result) ∧
    ((∀ ds shcp stcp l v, i ≠ .init ds shcp stcp l v) → (∀ x v, i ≠ .writeBit x v) → (∀ x, i ≠ .invertBit x) →
      (∀ v, i ≠ .writeBits v) → t.mirror = s.mirror) ∧
    (t.seq ≠ .faulted → t.cause = s.cause ∧ t.faultCmd = s.faultCmd ∧ t.faultCount = s.faultCount)

/-- R71: the mirror commands end in their acceptance step, idle or faulted, with `BUSY` 0 and no platform call; while
`CONFIGURED = 0` they raise NOT_INITIALIZED, and they write `STATUS` only through a fault. -/
def Obligations.MirrorCommandsTouchNoPin : Prop :=
  ∀ (i : Instr) (s t : State),
    ((∃ x, i = .testBit x) ∨ i = .testAll ∨ (∃ x v, i = .writeBit x v) ∨ ∃ x, i = .invertBit x) →
    exec i s = .next t →
    (t.seq = .idle ∨ t.seq = .faulted) ∧ t.respValid = true ∧ busy t = false ∧ t.trace = s.trace ∧ t.pins = s.pins ∧
      t.ioCall = s.ioCall ∧ (s.configured = false → t.seq = .faulted ∧ t.cause = .notInitialized) ∧
      (t.seq = .idle → t.configured = s.configured ∧ t.cause = s.cause)

/-- R76: the laws of WRITE_BIT and INVERT_BIT seen through TEST_BIT, and R75's self-inverse. -/
def Obligations.BitWritesSeenByTestBit : Prop :=
  ∀ (i j : Byte) (v : Data) (s : State), s.configured = true → i.toNat < shiftWidth s → j.toNat < shiftWidth s →
    Data.fits s.width v = true →
    (∃ t u, exec (.writeBit i v) s = .next t ∧ exec (.testBit j) t = .next u ∧
      u.result = some (if (if j = i then decide (v ≠ 0) else (readMirror s).getLsbD j.toNat) then 1 else 0)) ∧
    (∃ t u, exec (.invertBit i) s = .next t ∧ exec (.testBit j) t = .next u ∧
      u.result = some
        (if (if j = i then !(readMirror s).getLsbD j.toNat else (readMirror s).getLsbD j.toNat) then 1 else 0)) ∧
    (∃ t u, exec (.invertBit i) s = .next t ∧ exec (.invertBit i) t = .next u ∧ readMirror u = readMirror s)

/-- R87, R19, R38: after WRITE_BITS has run to its end, TEST_ALL returns exactly the value written, the bits at and above
`W` among them. -/
def Obligations.WriteBitsThenTestAllReturnsIt : Prop :=
  ∀ (v : Data) (s : State), s.configured = true → Data.fits s.width v = true →
    NoReset (4 * shiftWidth s + 4) s → CallsOk (4 * shiftWidth s + 4) s →
    ∃ t u w, exec (.writeBits v) s = .next t ∧ run (4 * shiftWidth s + 4) t = .next u ∧ u.seq = .idle ∧
      exec .testAll u = .next w ∧ w.result = some v ∧ w.seq = .idle

/-! ## The sequencer -/

/-- R79: the call of each micro-operation. -/
def Obligations.MicroOperationCalls : Prop :=
  ∀ (s : State) (ds shcp stcp : Byte) (v : Data) (i : Nat),
    s.cfgDs = some ds → s.cfgShcp = some shcp → s.cfgStcp = some stcp → s.mirror = some v →
    callOf s .confDs = .config ds ∧ callOf s .confShcp = .config shcp ∧ callOf s .confStcp = .config stcp ∧
    callOf s .llStcp = .write stcp false ∧ callOf s .llDs = .write ds false ∧ callOf s .llShcp = .write shcp false ∧
    callOf s (.shClkLo i) = .write shcp false ∧ callOf s (.shData i) = .write ds (v.getLsbD i) ∧
    callOf s (.shClkHi i) = .write shcp true ∧ callOf s (.shDataLo i) = .write ds false ∧
    callOf s .lhStcp = .write stcp true

/-- R80, R88: the lengths of the lists and every entry of the table of counts. -/
def Obligations.ListLengthsAndCounts : Prop :=
  ∀ w : Nat,
    lowOps.length = 3 ∧ (highOps w).length = 4 * w + 1 ∧ (pushOps w).length = 4 * w + 4 ∧
    (initOps w).length = 4 * w + 7 ∧
    (∀ col, columnCount col lowOps =
      match col with
      | .config => 0 | .dataBit => 0 | .dataLow => 1 | .shiftClock => 1 | .latchHigh => 0 | .latchLow => 1) ∧
    (∀ col, columnCount col (highOps w) =
      match col with
      | .config => 0 | .dataBit => w | .dataLow => w | .shiftClock => 2 * w | .latchHigh => 1 | .latchLow => 0) ∧
    (∀ col, columnCount col (pushOps w) =
      match col with
      | .config => 0 | .dataBit => w | .dataLow => w + 1 | .shiftClock => 2 * w + 1 | .latchHigh => 1 | .latchLow => 1) ∧
    (∀ col, columnCount col (initOps w) =
      match col with
      | .config => 3 | .dataBit => w | .dataLow => w + 1 | .shiftClock => 2 * w + 1 | .latchHigh => 1 | .latchLow => 1)

/-- R26, R63, R81: a sequence whose calls all return `ok` always runs to its end: one call a step, head first, busy and
without a response until the last call, which completes it; `R`, `RESULT`, the configuration and the fault record are
as before. -/
def Obligations.SequenceRunsToItsEnd : Prop :=
  ∀ (s : State) (op : MicroOp) (rest : List MicroOp), s.seq = .run op rest →
    NoReset (rest.length + 1) s → CallsOk (rest.length + 1) s →
    (∃ t, run (rest.length + 1) s = .next t ∧ t.seq = .idle ∧ t.respValid = true ∧
      t.cnt = s.cnt + BitVec.ofNat 16 (rest.length + 1) ∧ t.trace = s.trace ++ okEvents s (op :: rest) ∧
      t.pins = (okEvents s (op :: rest)).foldl applyEvent s.pins ∧
      t.mirror = s.mirror ∧ t.result = s.result ∧ t.cfgDs = s.cfgDs ∧ t.cfgShcp = s.cfgShcp ∧ t.cfgStcp = s.cfgStcp ∧
      t.cfgL = s.cfgL ∧ t.configured = s.configured ∧ t.cause = s.cause ∧ t.faultCmd = s.faultCmd ∧
      t.faultCount = s.faultCount ∧ t.cur = s.cur ∧ t.width = s.width) ∧
    (∀ k, 1 ≤ k → k ≤ rest.length → ∃ u, run k s = .next u ∧ busy u = true ∧ u.respValid = false ∧
      u.trace = s.trace ++ okEvents s ((op :: rest).take k))

/-- R149: platform calls and engine steps of every command, from acceptance to completion, when every call returns `ok`;
and a fault at acceptance takes one step and no call. -/
def Obligations.StepCountsOfEveryCommand : Prop :=
  ∀ (s : State) (c : Command), Presents c s →
    (∀ i, decode c = .ok i → specCheck c s = none →
      NoReset (callsOf i (widthFor i s) + 1) s → CallsOk (callsOf i (widthFor i s)) s →
      (∃ t, run (callsOf i (widthFor i s) + 1) s = .next t ∧ t.seq = .idle ∧ t.respValid = true ∧
        t.trace.length = s.trace.length + callsOf i (widthFor i s)) ∧
      (∀ k, 1 ≤ k → k ≤ callsOf i (widthFor i s) →
        ∃ u, run k s = .next u ∧ busy u = true ∧ u.respValid = false)) ∧
    (specCheck c s ≠ none →
      ∃ t, run 1 s = .next t ∧ t.seq = .faulted ∧ t.respValid = true ∧ t.trace = s.trace)

/-- R85, R86, R87, R66, R67, R39: the trace each pushing command adds when every call returns `ok`, most significant bit
first. -/
def Obligations.TracesOfThePushingCommands : Prop :=
  ∀ (s : State) (c : Command) (i : Instr), Presents c s → decode c = .ok i → specCheck c s = none →
    NoReset (callsOf i (widthFor i s) + 1) s → CallsOk (callsOf i (widthFor i s)) s →
    ∃ t, run (callsOf i (widthFor i s) + 1) s = .next t ∧
    match i with
    | .init ds shcp stcp l v =>
        t.trace = s.trace ++ (configTrace ds shcp stcp ++
          (lowTrace ds shcp stcp ++ highTrace ds shcp stcp (Data.fitTo s.width.bits v) (8 * l.toNat)))
    | .testBit _ => t.trace = s.trace
    | .testAll => t.trace = s.trace
    | .writeBit _ _ => t.trace = s.trace
    | .invertBit _ => t.trace = s.trace
    | .writeBits v =>
        t.trace = s.trace ++ (lowTrace (readDs s) (readShcp s) (readStcp s) ++
          highTrace (readDs s) (readShcp s) (readStcp s) (Data.fitTo s.width.bits v) (shiftWidth s))
    | .latchLow => t.trace = s.trace ++ lowTrace (readDs s) (readShcp s) (readStcp s)
    | .latchHigh =>
        t.trace = s.trace ++ highTrace (readDs s) (readShcp s) (readStcp s) (readMirror s) (shiftWidth s)

/-- R84: the levels of the three pins after each list, when every call returns `ok`. -/
def Obligations.LevelsAfterEachList : Prop :=
  ∀ (s : State) (ops : List MicroOp), ConfigLegal s → pinsWf s.pins = true → s.seq = seqOf ops →
    NoReset ops.length s → CallsOk ops.length s →
    ∃ t, run ops.length s = .next t ∧
    (ops = lowOps →
      pinLevel t (readStcp s) = .low ∧ pinLevel t (readDs s) = .low ∧ pinLevel t (readShcp s) = .low) ∧
    (ops = highOps (shiftWidth s) ∨ ops = pushOps (shiftWidth s) ∨ ops = initOps (shiftWidth s) →
      pinLevel t (readStcp s) = .high ∧ pinLevel t (readDs s) = .low ∧ pinLevel t (readShcp s) = .high)

/-- R19: the bits of `R` at or above `W` are never shifted out: two mirrors that agree below `W` issue the same calls. -/
def Obligations.HighBitsAreNeverShifted : Prop :=
  ∀ (s : State) (v u : Data) (n : Nat), (∀ i, i < n → v.getLsbD i = u.getLsbD i) →
    okEvents { s with mirror := some v } (initOps n) = okEvents { s with mirror := some u } (initOps n)

/-! ## The platform's pins -/

/-- R27: what a call leaves on its pin, `ok` or failed, and that no other pin changes. -/
def Obligations.CallEffectOnThePins : Prop :=
  ∀ (call : PinCall) (ok : Bool) (s : State), pinsWf s.pins = true →
    (∀ q, q ≠ callPin call → pinMode (issueCall call ok s) q = pinMode s q ∧
      pinLevel (issueCall call ok s) q = pinLevel s q) ∧
    (ok = false → pinLevel (issueCall call ok s) (callPin call) = .x ∧
      pinMode (issueCall call ok s) (callPin call) = pinMode s (callPin call)) ∧
    (ok = true →
      match call with
      | .config p => pinMode (issueCall call ok s) p = .output ∧ pinLevel (issueCall call ok s) p = pinLevel s p
      | .write p lvl => pinMode (issueCall call ok s) p = pinMode s p ∧
          pinLevel (issueCall call ok s) p = if lvl then .high else .low)

/-- R28: no command sequence writes a pin whose mode is UNCONFIGURED. -/
def Obligations.NoWriteToUnconfiguredPin : Prop :=
  ∀ (s t : State) (p : Byte) (lvl : Bool), EngineInv s → step s = .next t → t.ioCall = some (.write p lvl) →
    pinMode s p = .output

/-- R27, R34: the engine never reads the pins: with other pin states it does the same, but for the pins themselves. -/
def Obligations.EngineNeverReadsThePins : Prop :=
  ∀ (s t : State) (pins : List (Nat × PinState)), step s = .next t →
    ∃ pins', step { s with pins := pins } = .next { t with pins := pins' }

/-! ## Whole-machine rules -/

/-- The invariant of every run: `SW`-bit registers, `⊥` exactly before INIT, a legal configuration, `CAUSE` with `FAULT`,
the sequencer's list with `CUR` and `CNT`, configured pins before writes, and the pin table with the trace. -/
def Obligations.EveryStepKeepsTheInvariant : Prop :=
  ∀ s t : State, EngineInv s → step s = .next t → EngineInv t

/-- The invariant holds at power-on, at every state width, and at `State.reset`, whose width is the model's choice
(notes/assumptions/1.md). -/
def Obligations.InvariantHoldsAtPowerOn : Prop :=
  (∀ w : StateWidth, EngineInv (State.powerOn w)) ∧ EngineInv State.reset

/-- R20: once configured, the configuration does not change until reset. -/
def Obligations.ConfigurationIsImmutable : Prop :=
  ∀ s t : State, s.configured = true → rstNow s = false → step s = .next t →
    t.configured = true ∧ t.cfgDs = s.cfgDs ∧ t.cfgShcp = s.cfgShcp ∧ t.cfgStcp = s.cfgStcp ∧ t.cfgL = s.cfgL

/-- R18, R25: `R` is written by INIT, WRITE_BIT, INVERT_BIT and WRITE_BITS and by nothing else (but reset), and `RESULT` by
TEST_BIT and TEST_ALL only. -/
def Obligations.WritersOfMirrorAndResult : Prop :=
  ∀ s t : State, rstNow s = false → step s = .next t →
    (t.mirror ≠ s.mirror → ∃ c i, Presents c s ∧ decode c = .ok i ∧
      ((∃ ds shcp stcp l v, i = .init ds shcp stcp l v) ∨ (∃ x v, i = .writeBit x v) ∨ (∃ x, i = .invertBit x) ∨
        ∃ v, i = .writeBits v)) ∧
    (t.result ≠ s.result → ∃ c i, Presents c s ∧ decode c = .ok i ∧ ((∃ x, i = .testBit x) ∨ i = .testAll))

/-- R21, R32: the status word, the host's outputs, and the platform call port: `io_kind` is 0 for `PinConfig` and 1 for
`PinWrite`, `io_level` is 0 for `PinConfig`. -/
def Obligations.StatusWordLayout : Prop :=
  ∀ s : State,
    (ports s).status = status s ∧ (status s).getLsbD 0 = s.configured ∧
    ((status s).getLsbD 1 = true ↔ ∃ op rest, s.seq = .run op rest) ∧
    ((status s).getLsbD 2 = true ↔ s.seq = .faulted) ∧ (status s).getLsbD 3 = false ∧
    (status s).extractLsb' 4 4 = causeCode s.cause ∧
    ((ports s).cmdReady = true ↔ s.seq = .idle) ∧ (ports s).fault = (status s).getLsbD 2 ∧
    (EngineInv s → (status s).getLsbD 2 = false → (status s).extractLsb' 4 4 = 0) ∧
    (ports s).respValid = s.respValid ∧ (ports s).result = s.result ∧ (ports s).faultCmd = s.faultCmd ∧
    (ports s).faultCount = s.faultCount ∧
    (s.ioCall = none → (ports s).io = none) ∧
    (∀ p, s.ioCall = some (.config p) → (ports s).io = some { kind := false, pin := p, level := false }) ∧
    (∀ p lvl, s.ioCall = some (.write p lvl) → (ports s).io = some { kind := true, pin := p, level := lvl })

/-! ## The chain (R91 to R96: the spec's reference model, from general knowledge, notes/assumptions/12.md) -/

/-- R96, R140: a LATCH_HIGH whose calls all return `ok` leaves `S[i] = R[i]` for every `i < W`, from any chain state. The
outputs take it when `STCP` was low before, and keep their value when it was high. -/
def Obligations.LatchHighLoadsTheChain : Prop :=
  ∀ (s : State) (c : Command), EngineInv s → Presents c s → c.cmd = 0x0008 → s.configured = true →
    NoReset (4 * shiftWidth s + 2) s → CallsOk (4 * shiftWidth s + 1) s →
    ∃ t, run (4 * shiftWidth s + 2) s = .next t ∧ t.seq = .idle ∧ t.respValid = true ∧
      chainStates (wiringOf s) t.trace ≠ [] ∧
      (∀ q ∈ chainStates (wiringOf s) t.trace, q.shift = levelsOf (readMirror s) (shiftWidth s)) ∧
      (pinLevel s (readStcp s) = .low →
        ∀ q ∈ chainStates (wiringOf s) t.trace, q.out = levelsOf (readMirror s) (shiftWidth s)) ∧
      (pinLevel s (readStcp s) = .high →
        ∀ q ∈ chainStates (wiringOf s) t.trace, ∃ q0 ∈ chainStates (wiringOf s) s.trace, q.out = q0.out)

/-- R90, R96: when WRITE_BITS completes with every call `ok`, the chain's outputs are the bits `W-1..0` of the value. -/
def Obligations.WriteBitsShowsOnTheChain : Prop :=
  ∀ (s : State) (c : Command), EngineInv s → Presents c s → c.cmd = 0x0006 → s.configured = true →
    NoReset (4 * shiftWidth s + 5) s → CallsOk (4 * shiftWidth s + 4) s →
    ∃ t, run (4 * shiftWidth s + 5) s = .next t ∧ t.seq = .idle ∧ t.mirror = some c.data ∧
      chainStates (wiringOf s) t.trace = [⟨levelsOf c.data (shiftWidth s), levelsOf c.data (shiftWidth s)⟩]

/-- R70, R137: when INIT completes with every call `ok`, the engine is configured and idle after `4W + 8` steps and
`4W + 7` calls, the levels are those of R84 and the chain's outputs are `R[W-1:0]`, whatever the chain held before. -/
def Obligations.InitShowsOnTheChain : Prop :=
  ∀ (s : State) (c : Command) (ds shcp stcp l : Byte) (v : Data), EngineInv s → Presents c s → specCheck c s = none →
    decode c = .ok (.init ds shcp stcp l v) →
    NoReset (4 * (8 * l.toNat) + 8) s → CallsOk (4 * (8 * l.toNat) + 7) s →
    ∃ t, run (4 * (8 * l.toNat) + 8) s = .next t ∧ t.seq = .idle ∧ t.configured = true ∧ t.mirror = some v ∧
      t.trace.length = s.trace.length + (4 * (8 * l.toNat) + 7) ∧
      pinLevel t ds = .low ∧ pinLevel t shcp = .high ∧ pinLevel t stcp = .high ∧
      chainStates ⟨ds, shcp, stcp, 8 * l.toNat⟩ t.trace = [⟨levelsOf v (8 * l.toNat), levelsOf v (8 * l.toNat)⟩]

/-- R141: a LATCH_LOW whose calls all return `ok` drives the three pins low and changes neither stage of the chain. -/
def Obligations.LatchLowTransfersNothing : Prop :=
  ∀ (s : State) (c : Command), EngineInv s → Presents c s → c.cmd = 0x0007 → s.configured = true →
    NoReset 4 s → CallsOk 3 s →
    ∃ t, run 4 s = .next t ∧ t.seq = .idle ∧
      pinLevel t (readStcp s) = .low ∧ pinLevel t (readDs s) = .low ∧ pinLevel t (readShcp s) = .low ∧
      ∀ w q, q ∈ chainStates w t.trace ↔ q ∈ chainStates w s.trace

/-- R142: while an INIT, a WRITE_BITS or a LATCH_HIGH whose calls return `ok` runs, up to the step before `LH_STCP`, the
chain's outputs keep a value they had before; and `STCP` is low once the list's `LL_STCP` is done, or, in LATCH_HIGH,
if it was low before. -/
def Obligations.OutputsHeldDuringThePush : Prop :=
  ∀ (s : State) (c : Command) (i : Instr) (k : Nat), EngineInv s → Presents c s → decode c = .ok i →
    specCheck c s = none → ((∃ ds shcp stcp l v, i = .init ds shcp stcp l v) ∨ (∃ v, i = .writeBits v) ∨ i = .latchHigh) →
    NoReset (callsOf i (widthFor i s) + 1) s → CallsOk (callsOf i (widthFor i s)) s → k ≤ callsOf i (widthFor i s) →
    ∃ u, run k s = .next u ∧
      (∀ q ∈ chainStates (wiringFor i s) u.trace, ∃ q0 ∈ chainStates (wiringFor i s) s.trace, q.out = q0.out) ∧
      ((∃ ds shcp stcp l v, i = .init ds shcp stcp l v) → 5 ≤ k → pinLevel u (wiringFor i s).stcp = .low) ∧
      ((∃ v, i = .writeBits v) → 2 ≤ k → pinLevel u (wiringFor i s).stcp = .low) ∧
      (i = .latchHigh → pinLevel s (wiringFor i s).stcp = .low → pinLevel u (wiringFor i s).stcp = .low)
end

