-- ==== Sys2Proof/Laws/Data.lean ====
section
/-! SUPPORT. Laws of the bits of an `SW`-bit value (R10, R12, R38, R76). -/

namespace Sys2Proof

/-- Writing one bit: that bit, and every other as before (R12). -/
theorem Data.bit_setBit (v : Data) (i : Nat) (b : Bool) (hi : i < 256) (j : Nat) :
    (v.setBit i b).bit j = if j = i then b else v.bit j := by
  unfold Data.setBit Data.bit
  by_cases hj : j = i
  · subst hj; cases b <;> simp [hi]
  · rcases Nat.lt_or_ge j 256 with h | h
    · by_cases hij : j < i <;> cases b <;> simp [hj, h, hij] <;> omega
    · cases b <;> simp [hj, BitVec.getLsbD_of_ge _ _ h]

theorem Data.ext_bit {v u : Data} (h : ∀ i, v.bit i = u.bit i) : v = u :=
  BitVec.eq_of_getLsbD_eq fun i _ => h i

@[simp] theorem Data.bit_fitTo (n : Nat) (v : Data) (i : Nat) :
    (Data.fitTo n v).bit i = (decide (i < n) && v.bit i) := by
  unfold Data.fitTo Data.bit
  rcases Nat.lt_or_ge i 256 with h | h
  · simp [BitVec.getLsbD_setWidth, h]
  · simp [BitVec.getLsbD_of_ge _ _ h]

theorem Data.toNat_fitTo (n : Nat) (v : Data) : (Data.fitTo n v).toNat = v.toNat % 2 ^ n := by
  have h : v.toNat % 2 ^ n ≤ v.toNat := Nat.mod_le _ _
  have := v.isLt
  simp only [Data.fitTo, BitVec.toNat_setWidth]
  exact Nat.mod_eq_of_lt (by omega)

theorem Data.toNat_fitTo_lt (n : Nat) (v : Data) : (Data.fitTo n v).toNat < 2 ^ n := by
  rw [Data.toNat_fitTo]; exact Nat.mod_lt _ (by positivity)

/-- A value that fits is carried unchanged. -/
theorem Data.fitTo_of_lt {n : Nat} {v : Data} (h : v.toNat < 2 ^ n) : Data.fitTo n v = v :=
  BitVec.eq_of_toNat_eq (by rw [Data.toNat_fitTo, Nat.mod_eq_of_lt h])

@[simp] theorem Data.fitTo_fitTo (n : Nat) (v : Data) : Data.fitTo n (Data.fitTo n v) = Data.fitTo n v :=
  Data.fitTo_of_lt (Data.toNat_fitTo_lt n v)

/-- A value fits in `n` bits exactly when it has no bit at or above `n`. -/
theorem Data.lt_two_pow_iff {n : Nat} {v : Data} : v.toNat < 2 ^ n ↔ ∀ i, n ≤ i → v.bit i = false := by
  constructor
  · intro h i hi
    exact Nat.testBit_lt_two_pow (lt_of_lt_of_le h (Nat.pow_le_pow_right (by decide) hi))
  · intro h
    exact Nat.lt_pow_two_of_testBit _ fun i hi => h i hi

theorem Data.setBit_lt {n i : Nat} {v : Data} (h : v.toNat < 2 ^ n) (hi : i < n) (hn : n ≤ 256) (b : Bool) :
    (v.setBit i b).toNat < 2 ^ n := by
  rw [Data.lt_two_pow_iff] at h ⊢
  intro j hj
  rw [Data.bit_setBit _ _ _ (by omega), if_neg (by omega)]
  exact h j hj

theorem Data.ofBit_lt {n : Nat} (hn : 1 ≤ n) (b : Bool) : (Data.ofBit b).toNat < 2 ^ n := by
  have h : 2 ^ 1 ≤ 2 ^ n := Nat.pow_le_pow_right (by decide) hn
  cases b
  · simp [Data.ofBit]
  · have : (Data.ofBit true).toNat = 1 := by decide
    omega

theorem StateWidth.bits_le (w : StateWidth) : 8 ≤ w.bits ∧ w.bits ≤ 256 := by
  have := w.legal
  unfold StateWidth.bits
  omega

theorem Data.fits_iff (w : StateWidth) (v : Data) : Data.fits w v = true ↔ v.toNat < 2 ^ w.bits := by
  simp [Data.fits]

end Sys2Proof
end

