-- ==== Sys2Proof/Laws/Encoding.lean ====
section
/-! SUPPORT. Laws of the command word, of the configuration operand and of the decoder (R54 to R59). -/

namespace Sys2Proof

@[simp] theorem CmdWord.op_cmdWord (idx : Byte) (op : BitVec 4) : CmdWord.op (cmdWord idx op) = op := by
  apply BitVec.eq_of_getLsbD_eq
  intro i hi
  simp only [CmdWord.op, cmdWord, BitVec.getLsbD_extractLsb', BitVec.getLsbD_append]
  simp [hi, show i < 8 by omega]

@[simp] theorem CmdWord.rsv_cmdWord (idx : Byte) (op : BitVec 4) : CmdWord.rsv (cmdWord idx op) = 0 := by
  apply BitVec.eq_of_getLsbD_eq
  intro i hi
  simp only [CmdWord.rsv, cmdWord, BitVec.getLsbD_extractLsb', BitVec.getLsbD_append]
  simp [show 4 + i < 8 by omega]

@[simp] theorem CmdWord.idx_cmdWord (idx : Byte) (op : BitVec 4) : CmdWord.idx (cmdWord idx op) = idx := by
  apply BitVec.eq_of_getLsbD_eq
  intro i hi
  simp only [CmdWord.idx, cmdWord, BitVec.getLsbD_extractLsb', BitVec.getLsbD_append]
  simp [hi]

/-- A word is its three fields (R54). -/
theorem cmdWord_fields (w : CmdWord) (h : CmdWord.rsv w = 0) : cmdWord (CmdWord.idx w) (CmdWord.op w) = w := by
  apply BitVec.eq_of_getLsbD_eq
  intro i hi
  have hr : ∀ j, j < 4 → w.getLsbD (4 + j) = false := by
    intro j hj
    have := congrArg (fun v => BitVec.getLsbD v j) h
    simpa [CmdWord.rsv, BitVec.getLsbD_extractLsb', hj] using this
  simp only [CmdWord.op, CmdWord.idx, cmdWord, BitVec.getLsbD_extractLsb', BitVec.getLsbD_append]
  by_cases h8 : i < 8
  · by_cases h4 : i < 4
    · simp [h4, h8]
    · have := hr (i - 4) (by omega)
      rw [show 4 + (i - 4) = i by omega] at this
      simp [h4, h8, this]
  · simp [h8, show i - 8 < 8 by omega, show 8 + (i - 8) = i by omega]

@[simp] theorem CfgWord.ds_cfgWord (ds shcp stcp l : Byte) : CfgWord.ds (cfgWord ds shcp stcp l) = ds := by
  apply BitVec.eq_of_getLsbD_eq
  intro i hi
  simp only [CfgWord.ds, cfgWord, BitVec.getLsbD_extractLsb', BitVec.getLsbD_append]
  simp [hi, show i < 24 by omega, show i < 16 by omega]

@[simp] theorem CfgWord.shcp_cfgWord (ds shcp stcp l : Byte) : CfgWord.shcp (cfgWord ds shcp stcp l) = shcp := by
  apply BitVec.eq_of_getLsbD_eq
  intro i hi
  simp only [CfgWord.shcp, cfgWord, BitVec.getLsbD_extractLsb', BitVec.getLsbD_append]
  simp [hi, show 8 + i < 24 by omega, show 8 + i < 16 by omega]

@[simp] theorem CfgWord.stcp_cfgWord (ds shcp stcp l : Byte) : CfgWord.stcp (cfgWord ds shcp stcp l) = stcp := by
  apply BitVec.eq_of_getLsbD_eq
  intro i hi
  simp only [CfgWord.stcp, cfgWord, BitVec.getLsbD_extractLsb', BitVec.getLsbD_append]
  simp [hi, show 16 + i < 24 by omega]

@[simp] theorem CfgWord.l_cfgWord (ds shcp stcp l : Byte) : CfgWord.l (cfgWord ds shcp stcp l) = l := by
  apply BitVec.eq_of_getLsbD_eq
  intro i hi
  simp only [CfgWord.l, cfgWord, BitVec.getLsbD_extractLsb', BitVec.getLsbD_append]
  simp [hi]

/-- The configuration operand is its four fields (R55). -/
theorem cfgWord_fields (c : CfgWord) : cfgWord (CfgWord.ds c) (CfgWord.shcp c) (CfgWord.stcp c) (CfgWord.l c) = c := by
  apply BitVec.eq_of_getLsbD_eq
  intro i hi
  simp only [CfgWord.ds, CfgWord.shcp, CfgWord.stcp, CfgWord.l, cfgWord, BitVec.getLsbD_extractLsb',
    BitVec.getLsbD_append]
  by_cases h1 : i < 8
  · simp [h1, show i < 24 by omega, show i < 16 by omega]
  · by_cases h2 : i < 16
    · simp [h1, h2, show i < 24 by omega, show i - 8 < 8 by omega, show 8 + (i - 8) = i by omega]
    · by_cases h3 : i < 24
      · simp [h2, h3, show i - 16 < 8 by omega, show 16 + (i - 16) = i by omega]
      · simp [h3, show i - 24 < 8 by omega, show 24 + (i - 24) = i by omega]

/-- A command without an index decodes only from a word without one (R59). -/
theorem withoutIndex_eq_ok {w : CmdWord} {i j : Instr} : withoutIndex w i = .ok j ↔ CmdWord.idx w = 0 ∧ i = j := by
  unfold withoutIndex
  split <;> simp_all

/-- Decoding looks at `RSV` first (R59). -/
theorem decode_eq_ok {c : Command} {i : Instr} : decode c = .ok i ↔ CmdWord.rsv c.cmd = 0 ∧ decodeOpcode c = .ok i := by
  unfold decode
  split <;> simp_all

end Sys2Proof
end

