-- ==== Sys2Proof/Laws/Pins.lean ====
section
/-! SUPPORT. Laws of the platform's pin table: its canonical form is kept, and a write changes the pin written and no
other (R27). -/

namespace Sys2Proof.Machine

theorem pinsWfFrom_mono {lo lo' : Nat} {l : List (Nat × PinState)} (h : lo' ≤ lo) (hl : pinsWfFrom lo l = true) :
    pinsWfFrom lo' l = true := by
  cases l with
  | nil => rfl
  | cons e rest =>
    obtain ⟨k, v⟩ := e
    simp only [pinsWfFrom, Bool.and_eq_true, decide_eq_true_eq] at hl ⊢
    exact ⟨⟨⟨by omega, hl.1.1.2⟩, hl.1.2⟩, hl.2⟩

/-- A pin below every key of the list is as at power-on. -/
theorem pinRead_of_lt {lo p : Nat} {l : List (Nat × PinState)} (hl : pinsWfFrom lo l = true) (hp : p < lo) :
    pinRead l p = PinState.powerOn := by
  induction l generalizing lo with
  | nil => rfl
  | cons e rest ih =>
    obtain ⟨k, v⟩ := e
    simp only [pinsWfFrom, Bool.and_eq_true, decide_eq_true_eq] at hl
    rw [pinRead, if_neg (by omega)]
    exact ih hl.2 (by omega)

theorem pinEntry_wf {lo p : Nat} {v : PinState} {rest : List (Nat × PinState)} (hlo : lo ≤ p) (hp : p < 256)
    (hr : pinsWfFrom (p + 1) rest = true) : pinsWfFrom lo (pinEntry p v rest) = true := by
  unfold pinEntry
  split
  · exact pinsWfFrom_mono (by omega) hr
  · simp [pinsWfFrom, *]

theorem pinRead_pinEntry {lo p q : Nat} {v : PinState} {rest : List (Nat × PinState)} (hlo : p < lo)
    (hr : pinsWfFrom lo rest = true) :
    pinRead (pinEntry p v rest) q = if q = p then v else pinRead rest q := by
  unfold pinEntry
  by_cases hv : v = PinState.powerOn
  · rw [if_pos hv]
    by_cases hq : q = p
    · rw [if_pos hq, hq, hv]; exact pinRead_of_lt hr hlo
    · rw [if_neg hq]
  · rw [if_neg hv, pinRead]
    by_cases hq : q = p
    · rw [if_pos hq.symm, if_pos hq]
    · rw [if_neg (Ne.symm hq), if_neg hq]

/-- A write keeps the canonical form. -/
theorem pinWrite_wfFrom {lo p : Nat} {v : PinState} {l : List (Nat × PinState)} (hl : pinsWfFrom lo l = true)
    (hlo : lo ≤ p) (hp : p < 256) : pinsWfFrom lo (pinWrite l p v) = true := by
  induction l generalizing lo with
  | nil => exact pinEntry_wf hlo hp rfl
  | cons e rest ih =>
    obtain ⟨k, u⟩ := e
    have hl' := hl
    simp only [pinsWfFrom, Bool.and_eq_true, decide_eq_true_eq] at hl'
    obtain ⟨⟨⟨h1, h2⟩, h3⟩, h4⟩ := hl'
    unfold pinWrite
    split
    · exact pinEntry_wf hlo hp (by simp [pinsWfFrom, *])
    · split
      · exact pinEntry_wf hlo hp (by subst p; exact h4)
      · simp only [pinsWfFrom, Bool.and_eq_true, decide_eq_true_eq]
        exact ⟨⟨⟨h1, h2⟩, h3⟩, ih h4 (by omega)⟩

theorem pinWrite_wf {p : Nat} {v : PinState} {l : List (Nat × PinState)} (hl : pinsWf l = true) (hp : p < 256) :
    pinsWf (pinWrite l p v) = true :=
  pinWrite_wfFrom hl (Nat.zero_le _) hp

/-- Reading after a write in a list whose keys start at `lo`: the pin written, and every other pin as before. -/
theorem pinRead_pinWriteFrom {lo p q : Nat} {v : PinState} {l : List (Nat × PinState)} (hl : pinsWfFrom lo l = true) :
    pinRead (pinWrite l p v) q = if q = p then v else pinRead l q := by
  induction l generalizing lo with
  | nil => exact pinRead_pinEntry (lo := p + 1) (by omega) rfl
  | cons e rest ih =>
    obtain ⟨k, u⟩ := e
    have hl' := hl
    simp only [pinsWfFrom, Bool.and_eq_true, decide_eq_true_eq] at hl'
    obtain ⟨⟨⟨h1, h2⟩, h3⟩, h4⟩ := hl'
    unfold pinWrite
    split
    · exact pinRead_pinEntry (lo := p + 1) (by omega) (by simp [pinsWfFrom, *])
    · split
      · subst p
        rw [pinRead_pinEntry (lo := k + 1) (by omega) h4, pinRead]
        by_cases hq : q = k
        · simp [hq]
        · rw [if_neg hq, if_neg hq, if_neg (Ne.symm hq)]
      · rw [pinRead, pinRead, ih h4]
        by_cases hk : k = q
        · rw [if_pos hk, if_pos hk, if_neg (by omega)]
        · rw [if_neg hk, if_neg hk]

/-- Reading after a write: the pin written, and every other pin as before. -/
theorem pinRead_pinWrite {p q : Nat} {v : PinState} {l : List (Nat × PinState)} (hl : pinsWf l = true) :
    pinRead (pinWrite l p v) q = if q = p then v else pinRead l q :=
  pinRead_pinWriteFrom hl

/-- An event keeps the canonical form. -/
theorem applyEvent_wf {pins : List (Nat × PinState)} (h : pinsWf pins = true) (e : Event) :
    pinsWf (applyEvent pins e) = true :=
  pinWrite_wf h (callPin e.call).isLt

/-- An event changes its own pin, as `pinAfter` says, and no other. -/
theorem pinRead_applyEvent {pins : List (Nat × PinState)} (h : pinsWf pins = true) (e : Event) (q : Nat) :
    pinRead (applyEvent pins e) q =
      if q = (callPin e.call).toNat then pinAfter e (pinRead pins q) else pinRead pins q := by
  rw [applyEvent, pinRead_pinWrite h]
  split
  · subst q; rfl
  · rfl

/-- A trace leaves a canonical table. -/
theorem foldl_applyEvent_wf {pins : List (Nat × PinState)} (h : pinsWf pins = true) (tr : List Event) :
    pinsWf (tr.foldl applyEvent pins) = true := by
  induction tr generalizing pins with
  | nil => exact h
  | cons e tr ih => exact ih (applyEvent_wf h e)

theorem pinsOfTrace_snoc (tr : List Event) (e : Event) :
    pinsOfTrace (tr ++ [e]) = applyEvent (pinsOfTrace tr) e := by
  simp [pinsOfTrace]

end Sys2Proof.Machine
end

