-- ==== Sys2Proof/Laws/State.lean ====
section
/-! SUPPORT. What each operation over the state leaves in each field, one lemma per field per operation, by rfl. -/

namespace Sys2Proof.Machine

variable (s : State)

/-! ### `tick`: what every step does (R63, R81) -/

@[simp] theorem tick_width : (tick s).width = s.width := rfl
@[simp] theorem tick_mirror : (tick s).mirror = s.mirror := rfl
@[simp] theorem tick_cfgDs : (tick s).cfgDs = s.cfgDs := rfl
@[simp] theorem tick_cfgShcp : (tick s).cfgShcp = s.cfgShcp := rfl
@[simp] theorem tick_cfgStcp : (tick s).cfgStcp = s.cfgStcp := rfl
@[simp] theorem tick_cfgL : (tick s).cfgL = s.cfgL := rfl
@[simp] theorem tick_configured : (tick s).configured = s.configured := rfl
@[simp] theorem tick_cause : (tick s).cause = s.cause := rfl
@[simp] theorem tick_faultCmd : (tick s).faultCmd = s.faultCmd := rfl
@[simp] theorem tick_faultCount : (tick s).faultCount = s.faultCount := rfl
@[simp] theorem tick_result : (tick s).result = s.result := rfl
@[simp] theorem tick_seq : (tick s).seq = s.seq := rfl
@[simp] theorem tick_cur : (tick s).cur = s.cur := rfl
@[simp] theorem tick_cnt : (tick s).cnt = s.cnt := rfl
@[simp] theorem tick_respValid : (tick s).respValid = false := rfl
@[simp] theorem tick_ioCall : (tick s).ioCall = none := rfl
@[simp] theorem tick_pins : (tick s).pins = s.pins := rfl
@[simp] theorem tick_trace : (tick s).trace = s.trace := rfl
@[simp] theorem tick_host : (tick s).host = hostAfterStep s.host := rfl
@[simp] theorem tick_rst : (tick s).rst = s.rst.tail := rfl
@[simp] theorem tick_ioFail : (tick s).ioFail = s.ioFail := rfl

/-! ### `takeCommand`: taking the port's command (R61) -/

@[simp] theorem takeCommand_width : (takeCommand s).width = s.width := rfl
@[simp] theorem takeCommand_mirror : (takeCommand s).mirror = s.mirror := rfl
@[simp] theorem takeCommand_cfgDs : (takeCommand s).cfgDs = s.cfgDs := rfl
@[simp] theorem takeCommand_cfgShcp : (takeCommand s).cfgShcp = s.cfgShcp := rfl
@[simp] theorem takeCommand_cfgStcp : (takeCommand s).cfgStcp = s.cfgStcp := rfl
@[simp] theorem takeCommand_cfgL : (takeCommand s).cfgL = s.cfgL := rfl
@[simp] theorem takeCommand_configured : (takeCommand s).configured = s.configured := rfl
@[simp] theorem takeCommand_cause : (takeCommand s).cause = s.cause := rfl
@[simp] theorem takeCommand_faultCmd : (takeCommand s).faultCmd = s.faultCmd := rfl
@[simp] theorem takeCommand_faultCount : (takeCommand s).faultCount = s.faultCount := rfl
@[simp] theorem takeCommand_result : (takeCommand s).result = s.result := rfl
@[simp] theorem takeCommand_seq : (takeCommand s).seq = s.seq := rfl
@[simp] theorem takeCommand_cur : (takeCommand s).cur = s.cur := rfl
@[simp] theorem takeCommand_cnt : (takeCommand s).cnt = s.cnt := rfl
@[simp] theorem takeCommand_respValid : (takeCommand s).respValid = s.respValid := rfl
@[simp] theorem takeCommand_ioCall : (takeCommand s).ioCall = s.ioCall := rfl
@[simp] theorem takeCommand_pins : (takeCommand s).pins = s.pins := rfl
@[simp] theorem takeCommand_trace : (takeCommand s).trace = s.trace := rfl
@[simp] theorem takeCommand_host : (takeCommand s).host = s.host.tail := rfl
@[simp] theorem takeCommand_rst : (takeCommand s).rst = s.rst := rfl
@[simp] theorem takeCommand_ioFail : (takeCommand s).ioFail = s.ioFail := rfl

/-! ### `acceptWord`: the head of Dispatch (R62) -/

@[simp] theorem acceptWord_width (w : CmdWord) : (acceptWord w s).width = s.width := rfl
@[simp] theorem acceptWord_mirror (w : CmdWord) : (acceptWord w s).mirror = s.mirror := rfl
@[simp] theorem acceptWord_cfgDs (w : CmdWord) : (acceptWord w s).cfgDs = s.cfgDs := rfl
@[simp] theorem acceptWord_cfgShcp (w : CmdWord) : (acceptWord w s).cfgShcp = s.cfgShcp := rfl
@[simp] theorem acceptWord_cfgStcp (w : CmdWord) : (acceptWord w s).cfgStcp = s.cfgStcp := rfl
@[simp] theorem acceptWord_cfgL (w : CmdWord) : (acceptWord w s).cfgL = s.cfgL := rfl
@[simp] theorem acceptWord_configured (w : CmdWord) : (acceptWord w s).configured = s.configured := rfl
@[simp] theorem acceptWord_cause (w : CmdWord) : (acceptWord w s).cause = s.cause := rfl
@[simp] theorem acceptWord_faultCmd (w : CmdWord) : (acceptWord w s).faultCmd = s.faultCmd := rfl
@[simp] theorem acceptWord_faultCount (w : CmdWord) : (acceptWord w s).faultCount = s.faultCount := rfl
@[simp] theorem acceptWord_result (w : CmdWord) : (acceptWord w s).result = s.result := rfl
@[simp] theorem acceptWord_seq (w : CmdWord) : (acceptWord w s).seq = s.seq := rfl
@[simp] theorem acceptWord_cur (w : CmdWord) : (acceptWord w s).cur = w := rfl
@[simp] theorem acceptWord_cnt (w : CmdWord) : (acceptWord w s).cnt = 0 := rfl
@[simp] theorem acceptWord_respValid (w : CmdWord) : (acceptWord w s).respValid = s.respValid := rfl
@[simp] theorem acceptWord_ioCall (w : CmdWord) : (acceptWord w s).ioCall = s.ioCall := rfl
@[simp] theorem acceptWord_pins (w : CmdWord) : (acceptWord w s).pins = s.pins := rfl
@[simp] theorem acceptWord_trace (w : CmdWord) : (acceptWord w s).trace = s.trace := rfl
@[simp] theorem acceptWord_host (w : CmdWord) : (acceptWord w s).host = s.host := rfl
@[simp] theorem acceptWord_rst (w : CmdWord) : (acceptWord w s).rst = s.rst := rfl
@[simp] theorem acceptWord_ioFail (w : CmdWord) : (acceptWord w s).ioFail = s.ioFail := rfl

/-! ### `complete`: completion at acceptance (R63) -/

@[simp] theorem complete_width : (complete s).width = s.width := rfl
@[simp] theorem complete_mirror : (complete s).mirror = s.mirror := rfl
@[simp] theorem complete_cfgDs : (complete s).cfgDs = s.cfgDs := rfl
@[simp] theorem complete_cfgShcp : (complete s).cfgShcp = s.cfgShcp := rfl
@[simp] theorem complete_cfgStcp : (complete s).cfgStcp = s.cfgStcp := rfl
@[simp] theorem complete_cfgL : (complete s).cfgL = s.cfgL := rfl
@[simp] theorem complete_configured : (complete s).configured = s.configured := rfl
@[simp] theorem complete_cause : (complete s).cause = s.cause := rfl
@[simp] theorem complete_faultCmd : (complete s).faultCmd = s.faultCmd := rfl
@[simp] theorem complete_faultCount : (complete s).faultCount = s.faultCount := rfl
@[simp] theorem complete_result : (complete s).result = s.result := rfl
@[simp] theorem complete_seq : (complete s).seq = .idle := rfl
@[simp] theorem complete_cur : (complete s).cur = s.cur := rfl
@[simp] theorem complete_cnt : (complete s).cnt = s.cnt := rfl
@[simp] theorem complete_respValid : (complete s).respValid = true := rfl
@[simp] theorem complete_ioCall : (complete s).ioCall = s.ioCall := rfl
@[simp] theorem complete_pins : (complete s).pins = s.pins := rfl
@[simp] theorem complete_trace : (complete s).trace = s.trace := rfl
@[simp] theorem complete_host : (complete s).host = s.host := rfl
@[simp] theorem complete_rst : (complete s).rst = s.rst := rfl
@[simp] theorem complete_ioFail : (complete s).ioFail = s.ioFail := rfl

/-! ### `startSeq`: `SEQ <- RUN(ops)` (R78) -/

@[simp] theorem startSeq_width (ops : List MicroOp) : (startSeq ops s).width = s.width := rfl
@[simp] theorem startSeq_mirror (ops : List MicroOp) : (startSeq ops s).mirror = s.mirror := rfl
@[simp] theorem startSeq_cfgDs (ops : List MicroOp) : (startSeq ops s).cfgDs = s.cfgDs := rfl
@[simp] theorem startSeq_cfgShcp (ops : List MicroOp) : (startSeq ops s).cfgShcp = s.cfgShcp := rfl
@[simp] theorem startSeq_cfgStcp (ops : List MicroOp) : (startSeq ops s).cfgStcp = s.cfgStcp := rfl
@[simp] theorem startSeq_cfgL (ops : List MicroOp) : (startSeq ops s).cfgL = s.cfgL := rfl
@[simp] theorem startSeq_configured (ops : List MicroOp) : (startSeq ops s).configured = s.configured := rfl
@[simp] theorem startSeq_cause (ops : List MicroOp) : (startSeq ops s).cause = s.cause := rfl
@[simp] theorem startSeq_faultCmd (ops : List MicroOp) : (startSeq ops s).faultCmd = s.faultCmd := rfl
@[simp] theorem startSeq_faultCount (ops : List MicroOp) : (startSeq ops s).faultCount = s.faultCount := rfl
@[simp] theorem startSeq_result (ops : List MicroOp) : (startSeq ops s).result = s.result := rfl
@[simp] theorem startSeq_seq (ops : List MicroOp) : (startSeq ops s).seq = seqOf ops := rfl
@[simp] theorem startSeq_cur (ops : List MicroOp) : (startSeq ops s).cur = s.cur := rfl
@[simp] theorem startSeq_cnt (ops : List MicroOp) : (startSeq ops s).cnt = s.cnt := rfl
@[simp] theorem startSeq_respValid (ops : List MicroOp) : (startSeq ops s).respValid = s.respValid := rfl
@[simp] theorem startSeq_ioCall (ops : List MicroOp) : (startSeq ops s).ioCall = s.ioCall := rfl
@[simp] theorem startSeq_pins (ops : List MicroOp) : (startSeq ops s).pins = s.pins := rfl
@[simp] theorem startSeq_trace (ops : List MicroOp) : (startSeq ops s).trace = s.trace := rfl
@[simp] theorem startSeq_host (ops : List MicroOp) : (startSeq ops s).host = s.host := rfl
@[simp] theorem startSeq_rst (ops : List MicroOp) : (startSeq ops s).rst = s.rst := rfl
@[simp] theorem startSeq_ioFail (ops : List MicroOp) : (startSeq ops s).ioFail = s.ioFail := rfl

/-! ### `raiseFault`: fault entry (R121) -/

@[simp] theorem raiseFault_width (c : Cause) (count : BitVec 16) : (raiseFault c count s).width = s.width := rfl
@[simp] theorem raiseFault_mirror (c : Cause) (count : BitVec 16) : (raiseFault c count s).mirror = s.mirror := rfl
@[simp] theorem raiseFault_cfgDs (c : Cause) (count : BitVec 16) : (raiseFault c count s).cfgDs = s.cfgDs := rfl
@[simp] theorem raiseFault_cfgShcp (c : Cause) (count : BitVec 16) : (raiseFault c count s).cfgShcp = s.cfgShcp := rfl
@[simp] theorem raiseFault_cfgStcp (c : Cause) (count : BitVec 16) : (raiseFault c count s).cfgStcp = s.cfgStcp := rfl
@[simp] theorem raiseFault_cfgL (c : Cause) (count : BitVec 16) : (raiseFault c count s).cfgL = s.cfgL := rfl
@[simp] theorem raiseFault_configured (c : Cause) (count : BitVec 16) : (raiseFault c count s).configured = s.configured := rfl
@[simp] theorem raiseFault_cause (c : Cause) (count : BitVec 16) : (raiseFault c count s).cause = c := rfl
@[simp] theorem raiseFault_faultCmd (c : Cause) (count : BitVec 16) : (raiseFault c count s).faultCmd = s.cur := rfl
@[simp] theorem raiseFault_faultCount (c : Cause) (count : BitVec 16) : (raiseFault c count s).faultCount = count := rfl
@[simp] theorem raiseFault_result (c : Cause) (count : BitVec 16) : (raiseFault c count s).result = s.result := rfl
@[simp] theorem raiseFault_seq (c : Cause) (count : BitVec 16) : (raiseFault c count s).seq = .faulted := rfl
@[simp] theorem raiseFault_cur (c : Cause) (count : BitVec 16) : (raiseFault c count s).cur = s.cur := rfl
@[simp] theorem raiseFault_cnt (c : Cause) (count : BitVec 16) : (raiseFault c count s).cnt = s.cnt := rfl
@[simp] theorem raiseFault_respValid (c : Cause) (count : BitVec 16) : (raiseFault c count s).respValid = true := rfl
@[simp] theorem raiseFault_ioCall (c : Cause) (count : BitVec 16) : (raiseFault c count s).ioCall = s.ioCall := rfl
@[simp] theorem raiseFault_pins (c : Cause) (count : BitVec 16) : (raiseFault c count s).pins = s.pins := rfl
@[simp] theorem raiseFault_trace (c : Cause) (count : BitVec 16) : (raiseFault c count s).trace = s.trace := rfl
@[simp] theorem raiseFault_host (c : Cause) (count : BitVec 16) : (raiseFault c count s).host = s.host := rfl
@[simp] theorem raiseFault_rst (c : Cause) (count : BitVec 16) : (raiseFault c count s).rst = s.rst := rfl
@[simp] theorem raiseFault_ioFail (c : Cause) (count : BitVec 16) : (raiseFault c count s).ioFail = s.ioFail := rfl

/-! ### `resetAction`: the reset action (R132, R133) -/

@[simp] theorem resetAction_width : (resetAction s).width = s.width := rfl
@[simp] theorem resetAction_mirror : (resetAction s).mirror = none := rfl
@[simp] theorem resetAction_cfgDs : (resetAction s).cfgDs = none := rfl
@[simp] theorem resetAction_cfgShcp : (resetAction s).cfgShcp = none := rfl
@[simp] theorem resetAction_cfgStcp : (resetAction s).cfgStcp = none := rfl
@[simp] theorem resetAction_cfgL : (resetAction s).cfgL = none := rfl
@[simp] theorem resetAction_configured : (resetAction s).configured = false := rfl
@[simp] theorem resetAction_cause : (resetAction s).cause = .none := rfl
@[simp] theorem resetAction_faultCmd : (resetAction s).faultCmd = 0 := rfl
@[simp] theorem resetAction_faultCount : (resetAction s).faultCount = 0 := rfl
@[simp] theorem resetAction_result : (resetAction s).result = none := rfl
@[simp] theorem resetAction_seq : (resetAction s).seq = .idle := rfl
@[simp] theorem resetAction_cur : (resetAction s).cur = 0 := rfl
@[simp] theorem resetAction_cnt : (resetAction s).cnt = 0 := rfl
@[simp] theorem resetAction_respValid : (resetAction s).respValid = false := rfl
@[simp] theorem resetAction_ioCall : (resetAction s).ioCall = none := rfl
@[simp] theorem resetAction_pins : (resetAction s).pins = s.pins := rfl
@[simp] theorem resetAction_trace : (resetAction s).trace = s.trace := rfl
@[simp] theorem resetAction_host : (resetAction s).host = s.host := rfl
@[simp] theorem resetAction_rst : (resetAction s).rst = s.rst := rfl
@[simp] theorem resetAction_ioFail : (resetAction s).ioFail = s.ioFail := rfl

/-! ### `setMirror`: `R <- v` (R12) -/

@[simp] theorem setMirror_width (v : Data) : (setMirror v s).width = s.width := rfl
@[simp] theorem setMirror_mirror (v : Data) : (setMirror v s).mirror = some v := rfl
@[simp] theorem setMirror_cfgDs (v : Data) : (setMirror v s).cfgDs = s.cfgDs := rfl
@[simp] theorem setMirror_cfgShcp (v : Data) : (setMirror v s).cfgShcp = s.cfgShcp := rfl
@[simp] theorem setMirror_cfgStcp (v : Data) : (setMirror v s).cfgStcp = s.cfgStcp := rfl
@[simp] theorem setMirror_cfgL (v : Data) : (setMirror v s).cfgL = s.cfgL := rfl
@[simp] theorem setMirror_configured (v : Data) : (setMirror v s).configured = s.configured := rfl
@[simp] theorem setMirror_cause (v : Data) : (setMirror v s).cause = s.cause := rfl
@[simp] theorem setMirror_faultCmd (v : Data) : (setMirror v s).faultCmd = s.faultCmd := rfl
@[simp] theorem setMirror_faultCount (v : Data) : (setMirror v s).faultCount = s.faultCount := rfl
@[simp] theorem setMirror_result (v : Data) : (setMirror v s).result = s.result := rfl
@[simp] theorem setMirror_seq (v : Data) : (setMirror v s).seq = s.seq := rfl
@[simp] theorem setMirror_cur (v : Data) : (setMirror v s).cur = s.cur := rfl
@[simp] theorem setMirror_cnt (v : Data) : (setMirror v s).cnt = s.cnt := rfl
@[simp] theorem setMirror_respValid (v : Data) : (setMirror v s).respValid = s.respValid := rfl
@[simp] theorem setMirror_ioCall (v : Data) : (setMirror v s).ioCall = s.ioCall := rfl
@[simp] theorem setMirror_pins (v : Data) : (setMirror v s).pins = s.pins := rfl
@[simp] theorem setMirror_trace (v : Data) : (setMirror v s).trace = s.trace := rfl
@[simp] theorem setMirror_host (v : Data) : (setMirror v s).host = s.host := rfl
@[simp] theorem setMirror_rst (v : Data) : (setMirror v s).rst = s.rst := rfl
@[simp] theorem setMirror_ioFail (v : Data) : (setMirror v s).ioFail = s.ioFail := rfl

/-! ### `setResult`: `RESULT <- v` (R25) -/

@[simp] theorem setResult_width (v : Data) : (setResult v s).width = s.width := rfl
@[simp] theorem setResult_mirror (v : Data) : (setResult v s).mirror = s.mirror := rfl
@[simp] theorem setResult_cfgDs (v : Data) : (setResult v s).cfgDs = s.cfgDs := rfl
@[simp] theorem setResult_cfgShcp (v : Data) : (setResult v s).cfgShcp = s.cfgShcp := rfl
@[simp] theorem setResult_cfgStcp (v : Data) : (setResult v s).cfgStcp = s.cfgStcp := rfl
@[simp] theorem setResult_cfgL (v : Data) : (setResult v s).cfgL = s.cfgL := rfl
@[simp] theorem setResult_configured (v : Data) : (setResult v s).configured = s.configured := rfl
@[simp] theorem setResult_cause (v : Data) : (setResult v s).cause = s.cause := rfl
@[simp] theorem setResult_faultCmd (v : Data) : (setResult v s).faultCmd = s.faultCmd := rfl
@[simp] theorem setResult_faultCount (v : Data) : (setResult v s).faultCount = s.faultCount := rfl
@[simp] theorem setResult_result (v : Data) : (setResult v s).result = some v := rfl
@[simp] theorem setResult_seq (v : Data) : (setResult v s).seq = s.seq := rfl
@[simp] theorem setResult_cur (v : Data) : (setResult v s).cur = s.cur := rfl
@[simp] theorem setResult_cnt (v : Data) : (setResult v s).cnt = s.cnt := rfl
@[simp] theorem setResult_respValid (v : Data) : (setResult v s).respValid = s.respValid := rfl
@[simp] theorem setResult_ioCall (v : Data) : (setResult v s).ioCall = s.ioCall := rfl
@[simp] theorem setResult_pins (v : Data) : (setResult v s).pins = s.pins := rfl
@[simp] theorem setResult_trace (v : Data) : (setResult v s).trace = s.trace := rfl
@[simp] theorem setResult_host (v : Data) : (setResult v s).host = s.host := rfl
@[simp] theorem setResult_rst (v : Data) : (setResult v s).rst = s.rst := rfl
@[simp] theorem setResult_ioFail (v : Data) : (setResult v s).ioFail = s.ioFail := rfl

/-! ### `configure`: INIT's configuration writes (R66) -/

@[simp] theorem configure_width (ds shcp stcp l : Byte) : (configure ds shcp stcp l s).width = s.width := rfl
@[simp] theorem configure_mirror (ds shcp stcp l : Byte) : (configure ds shcp stcp l s).mirror = s.mirror := rfl
@[simp] theorem configure_cfgDs (ds shcp stcp l : Byte) : (configure ds shcp stcp l s).cfgDs = some ds := rfl
@[simp] theorem configure_cfgShcp (ds shcp stcp l : Byte) : (configure ds shcp stcp l s).cfgShcp = some shcp := rfl
@[simp] theorem configure_cfgStcp (ds shcp stcp l : Byte) : (configure ds shcp stcp l s).cfgStcp = some stcp := rfl
@[simp] theorem configure_cfgL (ds shcp stcp l : Byte) : (configure ds shcp stcp l s).cfgL = some l := rfl
@[simp] theorem configure_configured (ds shcp stcp l : Byte) : (configure ds shcp stcp l s).configured = true := rfl
@[simp] theorem configure_cause (ds shcp stcp l : Byte) : (configure ds shcp stcp l s).cause = s.cause := rfl
@[simp] theorem configure_faultCmd (ds shcp stcp l : Byte) : (configure ds shcp stcp l s).faultCmd = s.faultCmd := rfl
@[simp] theorem configure_faultCount (ds shcp stcp l : Byte) : (configure ds shcp stcp l s).faultCount = s.faultCount := rfl
@[simp] theorem configure_result (ds shcp stcp l : Byte) : (configure ds shcp stcp l s).result = s.result := rfl
@[simp] theorem configure_seq (ds shcp stcp l : Byte) : (configure ds shcp stcp l s).seq = s.seq := rfl
@[simp] theorem configure_cur (ds shcp stcp l : Byte) : (configure ds shcp stcp l s).cur = s.cur := rfl
@[simp] theorem configure_cnt (ds shcp stcp l : Byte) : (configure ds shcp stcp l s).cnt = s.cnt := rfl
@[simp] theorem configure_respValid (ds shcp stcp l : Byte) : (configure ds shcp stcp l s).respValid = s.respValid := rfl
@[simp] theorem configure_ioCall (ds shcp stcp l : Byte) : (configure ds shcp stcp l s).ioCall = s.ioCall := rfl
@[simp] theorem configure_pins (ds shcp stcp l : Byte) : (configure ds shcp stcp l s).pins = s.pins := rfl
@[simp] theorem configure_trace (ds shcp stcp l : Byte) : (configure ds shcp stcp l s).trace = s.trace := rfl
@[simp] theorem configure_host (ds shcp stcp l : Byte) : (configure ds shcp stcp l s).host = s.host := rfl
@[simp] theorem configure_rst (ds shcp stcp l : Byte) : (configure ds shcp stcp l s).rst = s.rst := rfl
@[simp] theorem configure_ioFail (ds shcp stcp l : Byte) : (configure ds shcp stcp l s).ioFail = s.ioFail := rfl

/-! ### `issueCall`: a platform call (R81) -/

@[simp] theorem issueCall_width (call : PinCall) (ok : Bool) : (issueCall call ok s).width = s.width := rfl
@[simp] theorem issueCall_mirror (call : PinCall) (ok : Bool) : (issueCall call ok s).mirror = s.mirror := rfl
@[simp] theorem issueCall_cfgDs (call : PinCall) (ok : Bool) : (issueCall call ok s).cfgDs = s.cfgDs := rfl
@[simp] theorem issueCall_cfgShcp (call : PinCall) (ok : Bool) : (issueCall call ok s).cfgShcp = s.cfgShcp := rfl
@[simp] theorem issueCall_cfgStcp (call : PinCall) (ok : Bool) : (issueCall call ok s).cfgStcp = s.cfgStcp := rfl
@[simp] theorem issueCall_cfgL (call : PinCall) (ok : Bool) : (issueCall call ok s).cfgL = s.cfgL := rfl
@[simp] theorem issueCall_configured (call : PinCall) (ok : Bool) : (issueCall call ok s).configured = s.configured := rfl
@[simp] theorem issueCall_cause (call : PinCall) (ok : Bool) : (issueCall call ok s).cause = s.cause := rfl
@[simp] theorem issueCall_faultCmd (call : PinCall) (ok : Bool) : (issueCall call ok s).faultCmd = s.faultCmd := rfl
@[simp] theorem issueCall_faultCount (call : PinCall) (ok : Bool) : (issueCall call ok s).faultCount = s.faultCount := rfl
@[simp] theorem issueCall_result (call : PinCall) (ok : Bool) : (issueCall call ok s).result = s.result := rfl
@[simp] theorem issueCall_seq (call : PinCall) (ok : Bool) : (issueCall call ok s).seq = s.seq := rfl
@[simp] theorem issueCall_cur (call : PinCall) (ok : Bool) : (issueCall call ok s).cur = s.cur := rfl
@[simp] theorem issueCall_cnt (call : PinCall) (ok : Bool) : (issueCall call ok s).cnt = s.cnt := rfl
@[simp] theorem issueCall_respValid (call : PinCall) (ok : Bool) : (issueCall call ok s).respValid = s.respValid := rfl
@[simp] theorem issueCall_ioCall (call : PinCall) (ok : Bool) : (issueCall call ok s).ioCall = some call := rfl
@[simp] theorem issueCall_pins (call : PinCall) (ok : Bool) : (issueCall call ok s).pins = applyEvent s.pins ⟨call, ok⟩ := rfl
@[simp] theorem issueCall_trace (call : PinCall) (ok : Bool) : (issueCall call ok s).trace = s.trace ++ [⟨call, ok⟩] := rfl
@[simp] theorem issueCall_host (call : PinCall) (ok : Bool) : (issueCall call ok s).host = s.host := rfl
@[simp] theorem issueCall_rst (call : PinCall) (ok : Bool) : (issueCall call ok s).rst = s.rst := rfl
@[simp] theorem issueCall_ioFail (call : PinCall) (ok : Bool) : (issueCall call ok s).ioFail = s.ioFail.tail := rfl

/-! ### `advance`: after an `ok` call (R81) -/

@[simp] theorem advance_width (rest : List MicroOp) : (advance rest s).width = s.width := rfl
@[simp] theorem advance_mirror (rest : List MicroOp) : (advance rest s).mirror = s.mirror := rfl
@[simp] theorem advance_cfgDs (rest : List MicroOp) : (advance rest s).cfgDs = s.cfgDs := rfl
@[simp] theorem advance_cfgShcp (rest : List MicroOp) : (advance rest s).cfgShcp = s.cfgShcp := rfl
@[simp] theorem advance_cfgStcp (rest : List MicroOp) : (advance rest s).cfgStcp = s.cfgStcp := rfl
@[simp] theorem advance_cfgL (rest : List MicroOp) : (advance rest s).cfgL = s.cfgL := rfl
@[simp] theorem advance_configured (rest : List MicroOp) : (advance rest s).configured = s.configured := rfl
@[simp] theorem advance_cause (rest : List MicroOp) : (advance rest s).cause = s.cause := rfl
@[simp] theorem advance_faultCmd (rest : List MicroOp) : (advance rest s).faultCmd = s.faultCmd := rfl
@[simp] theorem advance_faultCount (rest : List MicroOp) : (advance rest s).faultCount = s.faultCount := rfl
@[simp] theorem advance_result (rest : List MicroOp) : (advance rest s).result = s.result := rfl
@[simp] theorem advance_seq (rest : List MicroOp) : (advance rest s).seq = seqOf rest := rfl
@[simp] theorem advance_cur (rest : List MicroOp) : (advance rest s).cur = s.cur := rfl
@[simp] theorem advance_cnt (rest : List MicroOp) : (advance rest s).cnt = s.cnt + 1 := rfl
@[simp] theorem advance_respValid (rest : List MicroOp) : (advance rest s).respValid = rest.isEmpty := rfl
@[simp] theorem advance_ioCall (rest : List MicroOp) : (advance rest s).ioCall = s.ioCall := rfl
@[simp] theorem advance_pins (rest : List MicroOp) : (advance rest s).pins = s.pins := rfl
@[simp] theorem advance_trace (rest : List MicroOp) : (advance rest s).trace = s.trace := rfl
@[simp] theorem advance_host (rest : List MicroOp) : (advance rest s).host = s.host := rfl
@[simp] theorem advance_rst (rest : List MicroOp) : (advance rest s).rst = s.rst := rfl
@[simp] theorem advance_ioFail (rest : List MicroOp) : (advance rest s).ioFail = s.ioFail := rfl

/-! ### `placeCommand`: placing a command at the port -/

@[simp] theorem placeCommand_width (c : Command) : (placeCommand c s).width = s.width := rfl
@[simp] theorem placeCommand_mirror (c : Command) : (placeCommand c s).mirror = s.mirror := rfl
@[simp] theorem placeCommand_cfgDs (c : Command) : (placeCommand c s).cfgDs = s.cfgDs := rfl
@[simp] theorem placeCommand_cfgShcp (c : Command) : (placeCommand c s).cfgShcp = s.cfgShcp := rfl
@[simp] theorem placeCommand_cfgStcp (c : Command) : (placeCommand c s).cfgStcp = s.cfgStcp := rfl
@[simp] theorem placeCommand_cfgL (c : Command) : (placeCommand c s).cfgL = s.cfgL := rfl
@[simp] theorem placeCommand_configured (c : Command) : (placeCommand c s).configured = s.configured := rfl
@[simp] theorem placeCommand_cause (c : Command) : (placeCommand c s).cause = .none := rfl
@[simp] theorem placeCommand_faultCmd (c : Command) : (placeCommand c s).faultCmd = s.faultCmd := rfl
@[simp] theorem placeCommand_faultCount (c : Command) : (placeCommand c s).faultCount = s.faultCount := rfl
@[simp] theorem placeCommand_result (c : Command) : (placeCommand c s).result = s.result := rfl
@[simp] theorem placeCommand_seq (c : Command) : (placeCommand c s).seq = .idle := rfl
@[simp] theorem placeCommand_cur (c : Command) : (placeCommand c s).cur = s.cur := rfl
@[simp] theorem placeCommand_cnt (c : Command) : (placeCommand c s).cnt = s.cnt := rfl
@[simp] theorem placeCommand_respValid (c : Command) : (placeCommand c s).respValid = s.respValid := rfl
@[simp] theorem placeCommand_ioCall (c : Command) : (placeCommand c s).ioCall = s.ioCall := rfl
@[simp] theorem placeCommand_pins (c : Command) : (placeCommand c s).pins = s.pins := rfl
@[simp] theorem placeCommand_trace (c : Command) : (placeCommand c s).trace = s.trace := rfl
@[simp] theorem placeCommand_host (c : Command) : (placeCommand c s).host = .present c :: s.host := rfl
@[simp] theorem placeCommand_rst (c : Command) : (placeCommand c s).rst = noResetNext s.rst := rfl
@[simp] theorem placeCommand_ioFail (c : Command) : (placeCommand c s).ioFail = s.ioFail := rfl

end Sys2Proof.Machine
end

