-- ==== Sys2Proof/Laws/Ops.lean ====
section
/-! SUPPORT. What each shared operation can do, said once: the checks, the acceptance step, the sequencer step and the
engine step. Later proofs cite these and do not unfold the operations. -/

namespace Sys2Proof.Machine

/-! ### Reads see only the registers they name -/

@[simp] theorem readMirror_eq {s : State} {v : Data} (h : s.mirror = some v) : readMirror s = v := by
  simp [readMirror, h]

theorem readCfg_some (v : Byte) (b : BottomReg) : readCfg (some v) b = v := rfl

theorem shiftWidth_of_some {s : State} {l : Byte} (h : s.cfgL = some l) : shiftWidth s = 8 * l.toNat := by
  simp [shiftWidth, readL, h, readCfg]

/-! ### The operations that leave `R` and the configuration alone leave their reads alone -/

@[simp] theorem readMirror_tick (s : State) : readMirror (tick s) = readMirror s := rfl
@[simp] theorem readDs_tick (s : State) : readDs (tick s) = readDs s := rfl
@[simp] theorem readShcp_tick (s : State) : readShcp (tick s) = readShcp s := rfl
@[simp] theorem readStcp_tick (s : State) : readStcp (tick s) = readStcp s := rfl
@[simp] theorem shiftWidth_tick (s : State) : shiftWidth (tick s) = shiftWidth s := rfl
@[simp] theorem readMirror_takeCommand (s : State) : readMirror (takeCommand s) = readMirror s := rfl
@[simp] theorem readDs_takeCommand (s : State) : readDs (takeCommand s) = readDs s := rfl
@[simp] theorem readShcp_takeCommand (s : State) : readShcp (takeCommand s) = readShcp s := rfl
@[simp] theorem readStcp_takeCommand (s : State) : readStcp (takeCommand s) = readStcp s := rfl
@[simp] theorem shiftWidth_takeCommand (s : State) : shiftWidth (takeCommand s) = shiftWidth s := rfl
@[simp] theorem readMirror_acceptWord (w : CmdWord) (s : State) : readMirror (acceptWord w s) = readMirror s := rfl
@[simp] theorem readDs_acceptWord (w : CmdWord) (s : State) : readDs (acceptWord w s) = readDs s := rfl
@[simp] theorem readShcp_acceptWord (w : CmdWord) (s : State) : readShcp (acceptWord w s) = readShcp s := rfl
@[simp] theorem readStcp_acceptWord (w : CmdWord) (s : State) : readStcp (acceptWord w s) = readStcp s := rfl
@[simp] theorem shiftWidth_acceptWord (w : CmdWord) (s : State) : shiftWidth (acceptWord w s) = shiftWidth s := rfl
@[simp] theorem readMirror_setResult (v : Data) (s : State) : readMirror (setResult v s) = readMirror s := rfl
@[simp] theorem readDs_setResult (v : Data) (s : State) : readDs (setResult v s) = readDs s := rfl
@[simp] theorem readShcp_setResult (v : Data) (s : State) : readShcp (setResult v s) = readShcp s := rfl
@[simp] theorem readStcp_setResult (v : Data) (s : State) : readStcp (setResult v s) = readStcp s := rfl
@[simp] theorem shiftWidth_setResult (v : Data) (s : State) : shiftWidth (setResult v s) = shiftWidth s := rfl
@[simp] theorem readMirror_startSeq (ops : List MicroOp) (s : State) : readMirror (startSeq ops s) = readMirror s := rfl
@[simp] theorem readDs_startSeq (ops : List MicroOp) (s : State) : readDs (startSeq ops s) = readDs s := rfl
@[simp] theorem readShcp_startSeq (ops : List MicroOp) (s : State) : readShcp (startSeq ops s) = readShcp s := rfl
@[simp] theorem readStcp_startSeq (ops : List MicroOp) (s : State) : readStcp (startSeq ops s) = readStcp s := rfl
@[simp] theorem shiftWidth_startSeq (ops : List MicroOp) (s : State) : shiftWidth (startSeq ops s) = shiftWidth s := rfl
@[simp] theorem readMirror_complete (s : State) : readMirror (complete s) = readMirror s := rfl
@[simp] theorem readDs_complete (s : State) : readDs (complete s) = readDs s := rfl
@[simp] theorem readShcp_complete (s : State) : readShcp (complete s) = readShcp s := rfl
@[simp] theorem readStcp_complete (s : State) : readStcp (complete s) = readStcp s := rfl
@[simp] theorem shiftWidth_complete (s : State) : shiftWidth (complete s) = shiftWidth s := rfl
@[simp] theorem readMirror_issueCall (call : PinCall) (ok : Bool) (s : State) : readMirror (issueCall call ok s) = readMirror s := rfl
@[simp] theorem readDs_issueCall (call : PinCall) (ok : Bool) (s : State) : readDs (issueCall call ok s) = readDs s := rfl
@[simp] theorem readShcp_issueCall (call : PinCall) (ok : Bool) (s : State) : readShcp (issueCall call ok s) = readShcp s := rfl
@[simp] theorem readStcp_issueCall (call : PinCall) (ok : Bool) (s : State) : readStcp (issueCall call ok s) = readStcp s := rfl
@[simp] theorem shiftWidth_issueCall (call : PinCall) (ok : Bool) (s : State) : shiftWidth (issueCall call ok s) = shiftWidth s := rfl
@[simp] theorem readMirror_advance (rest : List MicroOp) (s : State) : readMirror (advance rest s) = readMirror s := rfl
@[simp] theorem readDs_advance (rest : List MicroOp) (s : State) : readDs (advance rest s) = readDs s := rfl
@[simp] theorem readShcp_advance (rest : List MicroOp) (s : State) : readShcp (advance rest s) = readShcp s := rfl
@[simp] theorem readStcp_advance (rest : List MicroOp) (s : State) : readStcp (advance rest s) = readStcp s := rfl
@[simp] theorem shiftWidth_advance (rest : List MicroOp) (s : State) : shiftWidth (advance rest s) = shiftWidth s := rfl
@[simp] theorem readMirror_raiseFault (c : Cause) (n : BitVec 16) (s : State) : readMirror (raiseFault c n s) = readMirror s := rfl
@[simp] theorem readDs_raiseFault (c : Cause) (n : BitVec 16) (s : State) : readDs (raiseFault c n s) = readDs s := rfl
@[simp] theorem readShcp_raiseFault (c : Cause) (n : BitVec 16) (s : State) : readShcp (raiseFault c n s) = readShcp s := rfl
@[simp] theorem readStcp_raiseFault (c : Cause) (n : BitVec 16) (s : State) : readStcp (raiseFault c n s) = readStcp s := rfl
@[simp] theorem shiftWidth_raiseFault (c : Cause) (n : BitVec 16) (s : State) : shiftWidth (raiseFault c n s) = shiftWidth s := rfl

@[simp] theorem shiftWidth_setMirror (v : Data) (s : State) : shiftWidth (setMirror v s) = shiftWidth s := rfl
@[simp] theorem readMirror_setMirror (v : Data) (s : State) : readMirror (setMirror v s) = v := rfl
@[simp] theorem shiftWidth_configure (ds shcp stcp l : Byte) (s : State) :
    shiftWidth (configure ds shcp stcp l s) = 8 * l.toNat := rfl

/-! ### The checks (R119) -/

theorem checkConfigured_eq_none {s : State} : checkConfigured s = none ↔ s.configured = true := by
  unfold checkConfigured; split <;> simp_all

theorem checkIndex_eq_none {i : Byte} {s : State} :
    checkIndex i s = none ↔ s.configured = true ∧ i.toNat < shiftWidth s := by
  unfold checkIndex indexOperand
  split
  · split <;> simp_all
  · simp_all

theorem checkInit_eq_none {ds shcp stcp l : Byte} {s : State} :
    checkInit ds shcp stcp l s = none ↔
      s.configured = false ∧ (l ≠ 0 ∧ 8 * l.toNat ≤ s.width.bits) ∧ (ds ≠ shcp ∧ ds ≠ stcp ∧ shcp ≠ stcp) := by
  unfold checkInit
  split
  · simp_all
  · split
    · rename_i h; simp only [reduceCtorEq, false_iff]
      rintro ⟨-, h2, -⟩; rcases h with h | h
      · exact h2.1 h
      · omega
    · split
      · rename_i h; simp only [reduceCtorEq, false_iff]
        rintro ⟨-, -, h3⟩; tauto
      · rename_i h1 h2 h3
        simp only [not_or, Nat.not_lt] at h2 h3
        simp_all

/-- A check never reports NONE as a fault. -/
theorem checkConfigured_ne_none {s : State} {c : Cause} (h : checkConfigured s = some c) : c ≠ .none := by
  unfold checkConfigured at h; split at h <;> simp_all; rintro rfl; simp at h

theorem checkIndex_ne_none {i : Byte} {s : State} {c : Cause} (h : checkIndex i s = some c) : c ≠ .none := by
  rintro rfl
  unfold checkIndex at h
  split at h
  · split at h <;> simp at h
  · simp at h

theorem checkInit_ne_none {ds shcp stcp l : Byte} {s : State} {c : Cause} (h : checkInit ds shcp stcp l s = some c) :
    c ≠ .none := by
  rintro rfl
  unfold checkInit at h
  split at h
  · simp at h
  · split at h
    · simp at h
    · split at h <;> simp at h

/-! ### The acceptance step (R62) -/

/-- Everything an acceptance step can do: a check fault, or the command's body after `CUR` and `CNT` are written. -/
theorem dispatch_cases (w : CmdWord) (check : State → Option Cause) (body : State → State) (s : State) :
    (∃ c, check (acceptWord w s) = some c ∧ dispatch w check body s = raiseFault c 0 (acceptWord w s)) ∨
      (check (acceptWord w s) = none ∧ dispatch w check body s = body (acceptWord w s)) := by
  unfold dispatch
  cases h : check (acceptWord w s) with
  | some c => exact .inl ⟨c, rfl, rfl⟩
  | none => exact .inr ⟨rfl, rfl⟩

theorem dispatch_of_some {w : CmdWord} {check : State → Option Cause} {body : State → State} {s : State} {c : Cause}
    (h : check (acceptWord w s) = some c) : dispatch w check body s = raiseFault c 0 (acceptWord w s) := by
  simp [dispatch, h]

theorem dispatch_of_none {w : CmdWord} {check : State → Option Cause} {body : State → State} {s : State}
    (h : check (acceptWord w s) = none) : dispatch w check body s = body (acceptWord w s) := by
  simp [dispatch, h]

/-- The checks read the configuration only, which accepting the word does not change. -/
@[simp] theorem checkConfigured_acceptWord (w : CmdWord) (s : State) :
    checkConfigured (acceptWord w s) = checkConfigured s := rfl
@[simp] theorem checkIndex_acceptWord (i : Byte) (w : CmdWord) (s : State) :
    checkIndex i (acceptWord w s) = checkIndex i s := rfl
@[simp] theorem checkInit_acceptWord (ds shcp stcp l : Byte) (w : CmdWord) (s : State) :
    checkInit ds shcp stcp l (acceptWord w s) = checkInit ds shcp stcp l s := rfl

/-- A command's check, by its constructor (R119 after the encoding checks). -/
def checkOf (i : Instr) (s : State) : Option Cause :=
  match i with
  | .init ds shcp stcp l _ => checkInit ds shcp stcp l s
  | .testBit i => checkIndex i s
  | .testAll => checkConfigured s
  | .writeBit i _ => checkIndex i s
  | .invertBit i => checkIndex i s
  | .writeBits _ => checkConfigured s
  | .latchLow => checkConfigured s
  | .latchHigh => checkConfigured s

/-- A command's body, by its constructor. -/
def bodyOf (i : Instr) (s : State) : State :=
  match i with
  | .init ds shcp stcp l value => initBody ds shcp stcp l value s
  | .testBit i => testBitBody i s
  | .testAll => testAllBody s
  | .writeBit i v => writeBitBody i v s
  | .invertBit i => invertBitBody i s
  | .writeBits v => writeBitsBody v s
  | .latchLow => startSeq lowOps s
  | .latchHigh => latchHighBody s

/-- Every meaning is one acceptance step of its own word, check and body. -/
theorem exec_eq (i : Instr) (s : State) :
    exec i s = .next (dispatch (encodeWord i) (checkOf i) (bodyOf i) s) := by
  cases i <;> rfl

/-- Everything a meaning can do. -/
theorem exec_cases (i : Instr) (s : State) :
    (∃ c, c ≠ .none ∧ checkOf i s = some c ∧ exec i s = .next (raiseFault c 0 (acceptWord (encodeWord i) s))) ∨
      (checkOf i s = none ∧ exec i s = .next (bodyOf i (acceptWord (encodeWord i) s))) := by
  rw [exec_eq]
  have hc : checkOf i (acceptWord (encodeWord i) s) = checkOf i s := by cases i <;> rfl
  rcases dispatch_cases (encodeWord i) (checkOf i) (bodyOf i) s with ⟨c, h1, h2⟩ | ⟨h1, h2⟩
  · rw [hc] at h1
    refine .inl ⟨c, ?_, h1, by rw [h2]⟩
    cases i with
    | init => exact checkInit_ne_none h1
    | testBit => exact checkIndex_ne_none h1
    | testAll => exact checkConfigured_ne_none h1
    | writeBit => exact checkIndex_ne_none h1
    | invertBit => exact checkIndex_ne_none h1
    | writeBits => exact checkConfigured_ne_none h1
    | latchLow => exact checkConfigured_ne_none h1
    | latchHigh => exact checkConfigured_ne_none h1
  · rw [hc] at h1
    exact .inr ⟨h1, by rw [h2]⟩

/-! ### The sequencer step (R81) -/

/-- Everything a sequencer step can do. -/
theorem seqStep_cases (op : MicroOp) (rest : List MicroOp) (s : State) :
    (ioFailNow s = true ∧
        seqStep op rest s = raiseFault .platformIoFailure s.cnt (issueCall (callOf s op) false s)) ∨
      (ioFailNow s = false ∧ seqStep op rest s = advance rest (issueCall (callOf s op) true s)) := by
  unfold seqStep
  cases h : ioFailNow s <;> simp

/-- A micro-operation's call depends on `R` and the configuration only (R79). -/
theorem callOf_congr {s t : State} (hw : s.width = t.width) (hm : s.mirror = t.mirror) (h1 : s.cfgDs = t.cfgDs)
    (h2 : s.cfgShcp = t.cfgShcp) (h3 : s.cfgStcp = t.cfgStcp) (op : MicroOp) : callOf s op = callOf t op := by
  have hr : readMirror s = readMirror t := by simp only [readMirror, hm, hw]
  have d1 : readDs s = readDs t := by simp only [readDs, h1]
  have d2 : readShcp s = readShcp t := by simp only [readShcp, h2]
  have d3 : readStcp s = readStcp t := by simp only [readStcp, h3]
  cases op <;> simp only [callOf, hr, d1, d2, d3]

/-! ### The engine step (R31, R120) -/

/-- Everything a step can do, by what it finds. -/
theorem step_cases (s : State) :
    (rstNow s = true ∧ step s = .next (resetAction (tick s))) ∨
      (rstNow s = false ∧ ∃ op rest, s.seq = .run op rest ∧ step s = .next (seqStep op rest (tick s))) ∨
      (rstNow s = false ∧ (s.seq = .faulted ∨ s.seq = .idle ∧ presented s = none) ∧ step s = .next (tick s)) ∨
      (rstNow s = false ∧ s.seq = .idle ∧ ∃ c, presented s = some c ∧ step s = acceptStep c (tick s)) := by
  unfold step engineStep
  cases hr : rstNow s with
  | true => exact .inl ⟨rfl, by simp⟩
  | false =>
    right
    simp only [Bool.false_eq_true, if_false]
    cases hs : s.seq with
    | run op rest => exact .inl ⟨trivial, op, rest, rfl, rfl⟩
    | faulted => exact .inr (.inl ⟨trivial, .inl rfl, rfl⟩)
    | idle =>
      cases hp : presented s with
      | none => exact .inr (.inl ⟨trivial, .inr ⟨rfl, rfl⟩, rfl⟩)
      | some c => exact .inr (.inr ⟨trivial, rfl, c, rfl, rfl⟩)

/-- Everything the acceptance of a presented command can do. -/
theorem acceptStep_cases (c : Command) (s : State) :
    (∃ i, decode c = .ok i ∧ acceptStep c s = exec i (takeCommand s)) ∨
      (∃ e, decode c = .error e ∧ acceptStep c s = .next (rejectWord c.cmd (takeCommand s))) := by
  unfold acceptStep
  cases h : decode c with
  | ok i => exact .inl ⟨i, rfl, rfl⟩
  | error e => exact .inr ⟨e, rfl, rfl⟩

end Sys2Proof.Machine
end

