-- ==== Sys2Proof/Laws/Check.lean ====
section
/-! SUPPORT. `Check` of R119, on the command's bits, is the decoder's refusal and then the decoded command's own check. -/

namespace Sys2Proof.Machine

/-- `specCheck` over the named fields. -/
theorem specCheck_fields (c : Command) (s : State) : specCheck c s =
    (if (CmdWord.op c.cmd).toNat = 0 ∨ 9 ≤ (CmdWord.op c.cmd).toNat ∨ CmdWord.rsv c.cmd ≠ 0 then some .reservedEncoding
    else if CmdWord.idx c.cmd ≠ 0 ∧ ¬ ((CmdWord.op c.cmd).toNat = 2 ∨ (CmdWord.op c.cmd).toNat = 4 ∨
        (CmdWord.op c.cmd).toNat = 5) then some .reservedEncoding
    else if (CmdWord.op c.cmd).toNat = 1 then
      checkInit (CfgWord.ds c.cfg) (CfgWord.shcp c.cfg) (CfgWord.stcp c.cfg) (CfgWord.l c.cfg) s
    else if s.configured = false then some .notInitialized
    else if ((CmdWord.op c.cmd).toNat = 2 ∨ (CmdWord.op c.cmd).toNat = 4 ∨ (CmdWord.op c.cmd).toNat = 5) ∧
        shiftWidth s ≤ (CmdWord.idx c.cmd).toNat then some .invalidIndex
    else none) := rfl

theorem checkConfigured_eq (s : State) :
    checkConfigured s = if s.configured = false then some .notInitialized else none := by
  cases h : s.configured <;> simp [checkConfigured, h]

theorem checkIndex_eq (i : Byte) (s : State) : checkIndex i s =
    if s.configured = false then some .notInitialized
    else if shiftWidth s ≤ i.toNat then some .invalidIndex else none := by
  unfold checkIndex indexOperand
  cases h : s.configured <;> simp

/-- R119's `Check` and the decoder agree. -/
theorem specCheck_eq (c : Command) (s : State) : specCheck c s =
    match decode c with
    | .error _ => some .reservedEncoding
    | .ok i => checkOf i s := by
  rw [specCheck_fields]
  unfold decode decodeOpcode withoutIndex
  generalize CmdWord.rsv c.cmd = rsv
  generalize CmdWord.idx c.cmd = idx
  have hlt := (CmdWord.op c.cmd).isLt
  generalize (CmdWord.op c.cmd).toNat = op at hlt ⊢
  by_cases hr : rsv = 0
  · rw [if_pos hr]
    by_cases hi : idx = 0
    · rw [if_pos hi]
      interval_cases op <;> simp [hr, hi, checkOf, checkConfigured_eq, checkIndex_eq]
    · have hi' : ¬ idx = 0#8 := hi
      rw [if_neg hi]
      interval_cases op <;> simp [hr, hi', checkOf, checkIndex_eq]
  · have hr' : ¬ rsv = 0#4 := hr
    rw [if_neg hr]
    simp [hr']

end Sys2Proof.Machine
end

