-- ==== Sys2Proof/Laws/PerInstr.lean ====
section
/-! SUPPORT. Per-instruction families. `LegalWord`: the word of every command is one of the 773 legal words (R59), with
no reserved bit set (R54), and is the word R64 gives. -/

namespace Sys2Proof.Laws.LegalWord

/-- The command's word is legal and its reserved field is zero. -/
def Statement (i : Instr) : Prop := legalWord (encodeWord i) = true ∧ CmdWord.rsv (encodeWord i) = 0

/-- A word made of an index and an operation code that decodes makes its command's word legal. -/
theorem of_cmdWord {i j : Instr} {idx : Byte} {op : BitVec 4} (hw : encodeWord i = cmdWord idx op)
    (h : decode ⟨cmdWord idx op, 0, 0⟩ = .ok j) : Statement i := by
  rw [Statement, hw, legalWord, h]
  exact ⟨rfl, CmdWord.rsv_cmdWord idx op⟩

theorem init (ds shcp stcp l : Byte) (value : Data) : Statement (.init ds shcp stcp l value) :=
  of_cmdWord (j := .init 0 0 0 0 0) rfl (by decide)

theorem testBit (i : Byte) : Statement (.testBit i) :=
  of_cmdWord (j := .testBit i) rfl (by simp [decode, decodeOpcode])

theorem testAll : Statement .testAll :=
  of_cmdWord (j := .testAll) rfl (by decide)

theorem writeBit (i : Byte) (v : Data) : Statement (.writeBit i v) :=
  of_cmdWord (j := .writeBit i 0) rfl (by simp [decode, decodeOpcode])

theorem invertBit (i : Byte) : Statement (.invertBit i) :=
  of_cmdWord (j := .invertBit i) rfl (by simp [decode, decodeOpcode])

theorem writeBits (v : Data) : Statement (.writeBits v) :=
  of_cmdWord (j := .writeBits 0) rfl (by decide)

theorem latchLow : Statement .latchLow :=
  of_cmdWord (j := .latchLow) rfl (by decide)

theorem latchHigh : Statement .latchHigh :=
  of_cmdWord (j := .latchHigh) rfl (by decide)

end Sys2Proof.Laws.LegalWord
end

