-- ==== Sys2Proof/Laws/Run.lean ====
section
/-! SUPPORT. Runs of engine steps, and what one step does under the conditions on the inputs. -/

namespace Sys2Proof.Machine

/-! ### Runs -/

@[simp] theorem run_zero (s : State) : run 0 s = .next s := rfl

/-- A run is its first step and the run after it. -/
theorem run_succ {n : Nat} {s t : State} (h : step s = .next t) : run (n + 1) s = run n t := by
  rw [run, h]

/-- Two runs, one after the other. -/
theorem run_add {m n : Nat} {s t : State} (h : run m s = .next t) : run (m + n) s = run n t := by
  induction m generalizing s with
  | zero => cases h; rw [Nat.zero_add]
  | succ m ih =>
    rw [Nat.add_right_comm]
    rw [run] at h ⊢
    cases hs : step s with
    | next u => rw [hs] at h; exact ih h
    | fault r => rw [hs] at h; exact absurd h (by simp)
    | refused r => rw [hs] at h; exact absurd h (by simp)

/-! ### The end of a run (R138) -/

/-- One step of a run that may end well. -/
theorem endsWellFrom_succ {n : Nat} {unfinished : Bool} {s t : State} (h : step s = .next t) :
    endsWellFrom (n + 1) unfinished s = endsWellFrom n ((unfinished || accepts s) && !completes t) t := by
  rw [endsWellFrom, h]

/-- A run that ends well ends idle, without a fault, and with no command left to present. -/
theorem atRest_of_endsWellFrom {n : Nat} {unfinished : Bool} {s : State} (h : endsWellFrom n unfinished s = true) :
    ∃ t, run n s = .next t ∧ atRest t = true := by
  induction n generalizing unfinished s with
  | zero =>
    rw [endsWellFrom, Bool.and_eq_true] at h
    exact ⟨s, rfl, h.1⟩
  | succ n ih =>
    rw [endsWellFrom] at h
    split at h
    · rename_i t ht
      obtain ⟨u, hu, hr⟩ := ih h
      exact ⟨u, by rw [run_succ ht, hu], hr⟩
    · exact absurd h (by simp)
    · exact absurd h (by simp)

/-- A run that stands faulted or is still running has not ended well. -/
theorem not_endsWellFrom_of_not_idle {n : Nat} {unfinished : Bool} {s t : State} (h : run n s = .next t)
    (ht : t.seq ≠ .idle) : endsWellFrom n unfinished s = false := by
  cases he : endsWellFrom n unfinished s with
  | false => rfl
  | true =>
    obtain ⟨u, hu, hr⟩ := atRest_of_endsWellFrom he
    rw [h] at hu; cases hu
    simp only [atRest, cmdReady] at hr
    cases hs : t.seq <;> simp_all

/-! ### The conditions on the inputs, one step later -/

theorem NoReset.now {n : Nat} {s : State} (h : NoReset (n + 1) s) : rstNow s = false := by
  have := h 0 (by omega)
  unfold rstNow
  cases hr : s.rst with
  | nil => rfl
  | cons b l => simpa [hr] using this

theorem NoReset.later {n : Nat} {s t : State} (h : NoReset (n + 1) s) (ht : t.rst = s.rst.tail) : NoReset n t := by
  intro k hk
  have := h (k + 1) (by omega)
  cases hr : s.rst with
  | nil => simp [ht, hr]
  | cons b l => simpa [ht, hr] using this

theorem NoReset.mono {m n : Nat} {s : State} (h : NoReset n s) (hmn : m ≤ n) : NoReset m s :=
  fun k hk => h k (by omega)

theorem NoReset.congr {n : Nat} {s t : State} (h : NoReset n s) (ht : t.rst = s.rst) : NoReset n t := by
  intro k hk; rw [ht]; exact h k hk

theorem CallsOk.now {n : Nat} {s : State} (h : CallsOk (n + 1) s) : ioFailNow s = false := by
  obtain ⟨l, hl⟩ := h
  unfold ioFailNow
  rw [hl]; rfl

theorem CallsOk.later {n : Nat} {s t : State} (h : CallsOk (n + 1) s) (ht : t.ioFail = s.ioFail.tail) : CallsOk n t := by
  obtain ⟨l, hl⟩ := h
  exact ⟨l, by rw [ht, hl]; rfl⟩

theorem CallsOk.mono {m n : Nat} {s : State} (h : CallsOk n s) (hmn : m ≤ n) : CallsOk m s := by
  obtain ⟨l, hl⟩ := h
  refine ⟨List.replicate (n - m) false ++ l, ?_⟩
  rw [hl, ← List.append_assoc, ← List.replicate_add, Nat.add_sub_cancel' hmn]

theorem CallsOk.congr {n : Nat} {s t : State} (h : CallsOk n s) (ht : t.ioFail = s.ioFail) : CallsOk n t := by
  obtain ⟨l, hl⟩ := h
  exact ⟨l, by rw [ht, hl]⟩

/-! ### One step of a running sequence, its call answered `ok` -/

/-- The state after an `ok` sequencer step (R81). -/
theorem step_run_ok {s : State} {op : MicroOp} {rest : List MicroOp} (hs : s.seq = .run op rest)
    (hr : rstNow s = false) (hf : ioFailNow s = false) :
    step s = .next (advance rest (issueCall (callOf s op) true (tick s))) := by
  rcases step_cases s with h | ⟨-, op', rest', hs', h⟩ | ⟨-, h', -⟩ | ⟨-, h', -⟩
  · rw [hr] at h; exact absurd h.1 (by decide)
  · rw [hs] at hs'; cases hs'
    rcases seqStep_cases op rest (tick s) with ⟨hf', -⟩ | ⟨-, h2⟩
    · have : ioFailNow (tick s) = ioFailNow s := rfl
      rw [this, hf] at hf'; exact absurd hf' (by decide)
    · rw [h, h2, callOf_congr (s := tick s) (t := s) rfl rfl rfl rfl rfl]
  · rw [hs] at h'; simp at h'
  · rw [hs] at h'; exact absurd h' (by simp)

/-- The state after a sequencer step whose call failed (R81, R118). -/
theorem step_run_fail {s : State} {op : MicroOp} {rest : List MicroOp} (hs : s.seq = .run op rest)
    (hr : rstNow s = false) (hf : ioFailNow s = true) :
    step s = .next (raiseFault .platformIoFailure s.cnt (issueCall (callOf s op) false (tick s))) := by
  rcases step_cases s with h | ⟨-, op', rest', hs', h⟩ | ⟨-, h', -⟩ | ⟨-, h', -⟩
  · rw [hr] at h; exact absurd h.1 (by decide)
  · rw [hs] at hs'; cases hs'
    rcases seqStep_cases op rest (tick s) with ⟨-, h2⟩ | ⟨hf', -⟩
    · rw [h, h2, callOf_congr (s := tick s) (t := s) rfl rfl rfl rfl rfl]; rfl
    · have : ioFailNow (tick s) = ioFailNow s := rfl
      rw [this, hf] at hf'; exact absurd hf' (by decide)
  · rw [hs] at h'; simp at h'
  · rw [hs] at h'; exact absurd h' (by simp)

/-- A step with a command on the port of the idle engine (R61). -/
theorem step_presents {s : State} {c : Command} (h : Presents c s) : step s = acceptStep c (tick s) := by
  obtain ⟨hs, hr, hp⟩ := h
  rcases step_cases s with h | ⟨-, op', rest', hs', h⟩ | ⟨-, h', -⟩ | ⟨-, -, c', hc', h⟩
  · rw [hr] at h; exact absurd h.1 (by decide)
  · rw [hs] at hs'; cases hs'
  · rw [hs, hp] at h'; simp at h'
  · rw [hp] at hc'; cases hc'; exact h

end Sys2Proof.Machine
end

