-- ==== Sys2Proof/Laws/Sequencer.lean ====
section
/-! SUPPORT. The micro-operation lists (R80): their lengths, and what one more bit adds. -/

namespace Sys2Proof.Machine

@[simp] theorem seqOf_nil : seqOf [] = .idle := rfl
@[simp] theorem seqOf_cons (op : MicroOp) (rest : List MicroOp) : seqOf (op :: rest) = .run op rest := rfl

@[simp] theorem length_lowOps : lowOps.length = 3 := rfl
@[simp] theorem length_bitOps (i : Nat) : (bitOps i).length = 4 := rfl

@[simp] theorem shiftOps_zero : shiftOps 0 = [] := rfl
theorem shiftOps_succ (n : Nat) : shiftOps (n + 1) = bitOps n ++ shiftOps n := rfl

@[simp] theorem length_shiftOps (n : Nat) : (shiftOps n).length = 4 * n := by
  induction n with
  | zero => rfl
  | succ n ih => rw [shiftOps_succ, List.length_append, ih, length_bitOps]; omega

/-- A micro-operation of the shift loop is one of the four of some bit below `n` (R80). -/
theorem mem_shiftOps {op : MicroOp} {n : Nat} :
    op ∈ shiftOps n ↔ ∃ i, i < n ∧ (op = .shClkLo i ∨ op = .shData i ∨ op = .shClkHi i ∨ op = .shDataLo i) := by
  induction n with
  | zero => simp
  | succ n ih =>
    rw [shiftOps_succ, List.mem_append, ih]
    constructor
    · rintro (h | ⟨i, hi, h⟩)
      · exact ⟨n, by omega, by simpa [bitOps] using h⟩
      · exact ⟨i, by omega, h⟩
    · rintro ⟨i, hi, h⟩
      by_cases hin : i = n
      · exact .inl (by subst hin; simpa [bitOps] using h)
      · exact .inr ⟨i, by omega, h⟩

/-- A list that is not empty starts a run (R78). -/
theorem seqOf_of_ne_nil {ops : List MicroOp} (h : ops ≠ []) : ∃ op rest, ops = op :: rest ∧ seqOf ops = .run op rest := by
  cases ops with
  | nil => exact absurd rfl h
  | cons op rest => exact ⟨op, rest, rfl, rfl⟩

theorem highOps_ne_nil (n : Nat) : highOps n ≠ [] := by simp [highOps]

end Sys2Proof.Machine
end

