-- ==== Sys2Proof/Tests/Slice0.lean ====
section
/-! SUPPORT. The model's own tests: small, one step each, with results taken from 95_test_vectors.md and the rules; and for
each statement with hypotheses a witness that meets them. -/

namespace Sys2Proof.Tests
open Sys2Proof Sys2Proof.Machine

/-! ### Small states -/

/-- The next state of an outcome. -/
def nextOf : Host.Outcome State Fault Refusal → Option State
  | .next t => some t
  | _ => none

/-- The three pins 2, 3, 4 configured and all low (R85). -/
def lowEvents : List Event := configTrace 2 3 4 ++ lowTrace 2 3 4

/-- The levels of R84 after a push: `DS` 0, `SHCP` 1, `STCP` 1. -/
def highEvents : List Event := lowEvents ++ [okWrite 3 true, okWrite 4 true]

/-- A configured idle engine: `SW = 32`, `L = 1`, pins 2, 3, 4, mirror `v`, and a trace that configured the pins. -/
def ready (v : Data) (tr : List Event) : State :=
  { State.reset with
    mirror := some v, cfgDs := some 2, cfgShcp := some 3, cfgStcp := some 4, cfgL := some 1, configured := true
    trace := tr, pins := pinsOfTrace tr }

/-- `I0` of 95_test_vectors.md L2, but for its longer trace. -/
def i0 : State := ready 0 highEvents

/-- `s` with a command on its port and `n` calls that answer `ok`. -/
def offered (c : Command) (n : Nat) (s : State) : State :=
  { s with host := [.present c], ioFail := List.replicate n false }

/-- A word with both buses at zero. -/
def word (w : CmdWord) : Command := ⟨w, 0, 0⟩

/-- `I0` in the middle of nothing yet: LATCH_LOW accepted, three calls to come, the first one answered `fail`. -/
def lowRunning (fail : Bool) : State :=
  { i0 with seq := .run .llStcp [.llDs, .llShcp], cur := 7, ioFail := [fail, false, false] }

/-- An engine that was in use and has been reset: the pins and the trace are as they were (R133). -/
def afterReset : State := { State.reset with trace := highEvents, pins := pinsOfTrace highEvents }

/-- A faulted engine. -/
def faulted : State := { i0 with seq := .faulted, cause := .invalidIndex, faultCmd := 0x0802 }

/-! ### Well-formedness: each ill-formed term is refused, its neighbour is not (R64; `SW = 32`) -/

theorem test_wf_init_refused :
    (Instr.init 2 3 4 1 0x100000000).wellFormed Config.resetWidth = false ∧
      (Instr.init 2 3 4 1 0xFFFFFFFF).wellFormed Config.resetWidth = true := by decide

theorem test_wf_writeBit_refused :
    (Instr.writeBit 3 0x100000000).wellFormed Config.resetWidth = false ∧
      (Instr.writeBit 3 0xFFFFFFFF).wellFormed Config.resetWidth = true := by decide

theorem test_wf_writeBits_refused :
    (Instr.writeBits 0x100000000).wellFormed Config.resetWidth = false ∧
      (Instr.writeBits 0xFFFFFFFF).wellFormed Config.resetWidth = true := by decide

/-! ### Decoding: words written out from the patterns of R54, R57, `iiiiiiii 0000 oooo` -/

theorem test_decode_init :
    decode ⟨0b0000000000000001, 0x80000001, 0x04040302⟩ = .ok (.init 2 3 4 4 0x80000001) := by decide
theorem test_decode_testBit : decode (word 0b1111111100000010) = .ok (.testBit 255) := by decide
theorem test_decode_testAll : decode (word 0b0000000000000011) = .ok .testAll := by decide
theorem test_decode_writeBit : decode ⟨0b0000001100000100, 0x80, 0⟩ = .ok (.writeBit 3 0x80) := by decide
theorem test_decode_invertBit : decode (word 0b0000010100000101) = .ok (.invertBit 5) := by decide
theorem test_decode_writeBits : decode ⟨0b0000000000000110, 0x1FF, 0⟩ = .ok (.writeBits 0x1FF) := by decide
theorem test_decode_latchLow : decode (word 0b0000000000000111) = .ok .latchLow := by decide
theorem test_decode_latchHigh : decode (word 0b0000000000001000) = .ok .latchHigh := by decide

/-- E1, E2, E4, E5, E8 and P-10: what is refused, and why (R59). -/
theorem test_decode_refused :
    decode (word 0x0000) = .error .reservedOpcode ∧ decode (word 0x0009) = .error .reservedOpcode ∧
      decode (word 0x0012) = .error .reservedField ∧ decode (word 0x0017) = .error .reservedField ∧
      decode (word 0x0103) = .error .strayIndex ∧ decode (word 0x0101) = .error .strayIndex := by decide

/-- Words of the opcode table, 16 bits, the operand buses at zero. -/
theorem test_table_words :
    decodeTableWord 16 0x0001 = some (.init 0 0 0 0 0) ∧ decodeTableWord 16 0x0502 = some (.testBit 5) ∧
      decodeTableWord 16 0x0003 = some .testAll ∧ decodeTableWord 16 0x0504 = some (.writeBit 5 0) ∧
      decodeTableWord 16 0x0105 = some (.invertBit 1) ∧ decodeTableWord 16 0x0006 = some (.writeBits 0) ∧
      decodeTableWord 16 0x0007 = some .latchLow ∧ decodeTableWord 16 0x0008 = some .latchHigh ∧
      decodeTableWord 16 0x0009 = none := by decide

/-- The encoder against the column `CMD` of R64. -/
theorem test_encode_words :
    encodeWord (.init 2 3 4 1 3) = 0x0001 ∧ encodeWord (.testBit 5) = 0x0502 ∧ encodeWord .testAll = 0x0003 ∧
      encodeWord (.writeBit 5 1) = 0x0504 ∧ encodeWord (.invertBit 1) = 0x0105 ∧ encodeWord (.writeBits 9) = 0x0006 ∧
      encodeWord .latchLow = 0x0007 ∧ encodeWord .latchHigh = 0x0008 ∧
      encode (.init 2 3 4 1 3) = ⟨0x0001, 0x3, 0x01040302⟩ := by decide

/-! ### The assembler (R64, R65) -/

theorem test_parse_line :
    parseLine ['i', 'n', 'i', 't', ' ', '2', ',', ' ', '3', ',', ' ', '4', ',', ' ', '0', 'x', 'f', ',', ' ', '0', 'b',
      '1', '1'] = some (.init 2 3 4 15 3) := by decide
theorem test_parse_bad_digit : parseLine ['t', 'e', 's', 't', 'b', 'i', 't', ' ', '0', 'b', '2'] = none := by decide
theorem test_assemble_refuses :
    assemble Config.resetWidth (.testBit 256) = none ∧ assemble Config.resetWidth (.writeBits 0x100000000) = none ∧
      assemble Config.resetWidth (.setBit 255) = some [.writeBit 255 1] := by decide
theorem test_listing_row : listingRow (.testBit 5) = ⟨0x0502, none, none⟩ := by decide

/-! ### One step of each command -/

/-- `step` runs the placed word as the first instruction: TEST_ALL after reset is NOT_INITIALIZED (M12: `0x24`). -/
theorem test_first_step :
    (nextOf (step (State.reset.withFetchWord 16 0x0003))).map (fun t => (status t, t.faultCmd, t.result)) =
      some (0x24, 0x0003, none) := by decide

/-- I2 at acceptance: `CONFIGURED` and `BUSY` (`0x03`), all `SW` bits stored, nothing issued. -/
theorem test_init :
    (nextOf (exec (.init 2 3 4 4 0x80000001) State.reset)).map (fun t => (status t, t.mirror, t.cfgL, t.trace)) =
      some (0x03, some 0x80000001, some 4, []) := by decide
/-- I3: `L = 0`, `STATUS = 0x44`, and nothing stored. -/
theorem test_init_bad_length :
    (nextOf (exec (.init 2 3 4 0 5) State.reset)).map (fun t => (status t, t.faultCmd, t.mirror, t.cfgL)) =
      some (0x44, 0x0001, none, none) := by decide

/-- M4: bit 31 of `0x80000001` with `W = 32`. -/
theorem test_testBit :
    (nextOf (exec (.testBit 31) { ready 0x80000001 highEvents with cfgL := some 4 })).map (fun t => t.result) =
      some (some 1) := by decide
/-- M2: `i = W`, `STATUS = 0x65`. -/
theorem test_testBit_index :
    (nextOf (exec (.testBit 8) i0)).map (fun t => (status t, t.faultCmd, t.faultCount)) =
      some (0x65, 0x0802, 0) := by decide

/-- M13: all `SW` bits are returned. -/
theorem test_testAll :
    (nextOf (exec .testAll (ready 0xFFFFFFFF highEvents))).map (fun t => (t.result, t.respValid)) =
      some (some 0xFFFFFFFF, true) := by decide

/-- M13, read as a signed integer: -1. -/
theorem test_signed_reading : Data.signedReading Config.resetWidth 0xFFFFFFFF = -1 := by decide

/-- M5: every nonzero value writes 1. -/
theorem test_writeBit :
    (nextOf (exec (.writeBit 3 0x80) i0)).map (fun t => (t.mirror, t.result, t.trace.length)) =
      some (some 0x08, none, 8) := by decide
/-- M14: `W <= 9 < SW` faults. -/
theorem test_writeBit_index : (nextOf (exec (.writeBit 9 1) i0)).map (fun t => (status t, t.mirror)) =
    some (0x65, some 0) := by decide

/-- M9: `0x21` with bit 5 inverted is `0x01`. -/
theorem test_invertBit :
    (nextOf (exec (.invertBit 5) (ready 0x21 highEvents))).map (fun t => (t.mirror, t.result)) =
      some (some 0x01, none) := by decide
/-- M10: inverted again. -/
theorem test_invertBit_back :
    (nextOf (exec (.invertBit 5) (ready 0x01 highEvents))).map (fun t => t.mirror) = some (some 0x21) := by decide

/-- P-7 at acceptance: all `SW` bits stored, the sequence starts with `LL_STCP`, 36 calls to come. -/
theorem test_writeBits :
    (nextOf (exec (.writeBits 0x1FF) i0)).map (fun t => (t.mirror, t.seq)) =
      some (some 0x1FF, .run .llStcp (.llDs :: .llShcp :: highOps 8)) := by decide
/-- P-11: before INIT. -/
theorem test_writeBits_unconfigured :
    (nextOf (exec (.writeBits 5) State.reset)).map (fun t => (status t, t.mirror)) = some (0x24, none) := by decide

/-- P-1 at acceptance. -/
theorem test_latchLow :
    (nextOf (exec .latchLow i0)).map (fun t => (t.seq, t.ioCall, t.respValid)) =
      some (.run .llStcp [.llDs, .llShcp], none, false) := by decide
/-- P-10: `RSV` is not zero, `STATUS = 0x15`. -/
theorem test_latchLow_reserved :
    (nextOf (step (offered (word 0x0017) 0 i0))).map (fun t => (status t, t.faultCmd, t.trace.length)) =
      some (0x15, 0x0017, 8) := by decide

/-- P-3 at acceptance: most significant bit first. -/
theorem test_latchHigh :
    (nextOf (exec .latchHigh (ready 0x80 lowEvents))).map (fun t => t.seq) =
      some (.run (.shClkLo 7) ([.shData 7, .shClkHi 7, .shDataLo 7] ++ highOps 7)) := by decide

/-! ### One step of the sequencer, of a fault and of reset -/

/-- The data bit of the mirror goes to the data pin, and the step is recorded (R79, R81). -/
theorem test_sequencer_data :
    (nextOf (step { ready 0x80 lowEvents with seq := .run (.shData 7) [.shClkHi 7], ioFail := [false] })).map
      (fun t => (t.ioCall, pinLevel t 2, t.cnt, t.seq)) =
      some (some (.write 2 true), .high, 1, .run (.shClkHi 7) []) := by decide
/-- The last call completes the command (R63). -/
theorem test_sequencer_last :
    (nextOf (step { ready 0x80 lowEvents with seq := .run .lhStcp [], cnt := 32, ioFail := [false] })).map
      (fun t => (t.respValid, t.seq, pinLevel t 4, status t)) = some (true, .idle, .high, 0x01) := by decide
/-- P-9: the second call of LATCH_LOW fails: `0x75`, one call returned `ok`, `LEVEL[2] = X`. -/
theorem test_sequencer_fail :
    (nextOf (step { i0 with seq := .run .llDs [.llShcp], cur := 7, cnt := 1, ioFail := [true] })).map
      (fun t => (status t, t.faultCmd, t.faultCount, pinLevel t 2)) = some (0x75, 0x0007, 1, .x) := by decide
/-- I10: a failed `PinConfig` leaves the pin unconfigured and its level unknown. -/
theorem test_config_fail :
    (nextOf (step { ready 3 [⟨.config 2, true⟩] with seq := .run .confShcp [], cur := 1, cnt := 1, ioFail := [true] })).map
      (fun t => (pinMode t 3, pinLevel t 3, t.faultCount)) = some (.unconfigured, .x, 1) := by decide
/-- X1: a reset step; the pins stay. -/
theorem test_reset :
    (nextOf (step { lowRunning false with rst := [true] })).map
      (fun t => (status t, t.seq, t.mirror, pinLevel t 4, t.trace.length)) = some (0x00, .idle, none, .high, 8) := by decide
/-- P4, command 3: a faulted engine lets the command wait. -/
theorem test_faulted_waits :
    (nextOf (step { faulted with host := [.present (word 0x0002)] })).map (fun t => (status t, t.host)) =
      some (0x65, [.present (word 0x0002)]) := by decide

/-! ### The end of a run (R138, R63): a completion is one, a fault or a reset is not -/

/-- M1 ends well. -/
theorem test_endsWell_completed : endsWell 1 (offered (word 0x0702) 0 i0) = true := by decide
/-- M2 and then a reset: the last command answered, with a fault. -/
theorem test_endsWell_faulted :
    endsWell 2 { offered (word 0x0802) 0 i0 with rst := [false, true] } = false := by decide
/-- X3 in small: a command in flight at the start that a reset drops; without the reset, its last call completes it. -/
theorem test_endsWell_in_flight :
    endsWell 1 { ready 0x80 lowEvents with seq := .run .lhStcp [], cnt := 32, ioFail := [false], rst := [true] } = false ∧
      endsWell 1 { ready 0x80 lowEvents with seq := .run .lhStcp [], cnt := 32, ioFail := [false] } = true := by decide

/-! ### The pin table and the chain -/

/-- Writing what an unlisted pin reads as removes the entry. -/
theorem test_pin_table_canonical :
    pinWrite [(2, ⟨.output, .low⟩), (3, ⟨.output, .x⟩)] 3 PinState.powerOn = [(2, ⟨.output, .low⟩)] := by decide
/-- A rising edge of the shift clock from a known low level: stage 0 takes the data line (R93). -/
theorem test_chain_shift :
    chainStates ⟨2, 3, 4, 2⟩ [okWrite 3 false, okWrite 2 true, okWrite 3 true] = [⟨[.high, .x], [.x, .x]⟩] := by decide
/-- A rise of the latch clock from an unknown level: both outcomes (R92). -/
theorem test_chain_draw :
    chainStates ⟨2, 3, 4, 1⟩ [okWrite 3 false, okWrite 2 true, okWrite 3 true, okWrite 4 true] =
      [⟨[.high], [.x]⟩, ⟨[.high], [.high]⟩] := by decide

/-! ### Witnesses: the hypotheses of each statement are met -/

theorem ready_inv {v : Data} {tr : List Event} (hv : v.toNat < 2 ^ 32) (h2 : (pinRead (pinsOfTrace tr) 2).mode = .output)
    (h3 : (pinRead (pinsOfTrace tr) 3).mode = .output) (h4 : (pinRead (pinsOfTrace tr) 4).mode = .output) :
    EngineInv (ready v tr) where
  mirrorFits := hv
  resultFits := trivial
  configLegal _ :=
    ⟨⟨2, 3, 4, 1, rfl, rfl, rfl, rfl, by decide, show 8 * 1 ≤ 8 * 4 by decide, by decide, by decide, by decide⟩, by simp [ready]⟩
  unconfigured h := by simp [ready] at h
  causeFault := by simp [ready, State.reset, State.powerOn]
  seqCoherent := trivial
  pinsReady _ := ⟨h2, h3, h4⟩
  pinsCanonical := foldl_applyEvent_wf rfl tr
  pinsTrace := rfl

theorem inv_of_inputs {s : State} (h : EngineInv s) (host : List HostMove) (rst ioFail : List Bool) :
    EngineInv { s with host := host, rst := rst, ioFail := ioFail } :=
  ⟨h.1, h.2, h.3, h.4, h.5, h.6, h.7, h.8, h.9⟩

theorem i0_inv : EngineInv i0 := ready_inv (by decide) (by decide) (by decide) (by decide)
theorem readyLow_inv : EngineInv (ready 3 lowEvents) := ready_inv (by decide) (by decide) (by decide) (by decide)

/-- The invariant of a running sequence. -/
theorem lowRunning_inv : EngineInv (lowRunning false) where
  mirrorFits := i0_inv.1
  resultFits := trivial
  configLegal := i0_inv.3
  unconfigured h := by simp [lowRunning, i0, ready] at h
  causeFault := by decide
  seqCoherent := ⟨rfl, by decide⟩
  pinsReady := ⟨by decide, by decide, by decide⟩
  pinsCanonical := i0_inv.8
  pinsTrace := rfl

theorem offered_inv {s : State} (h : EngineInv s) (c : Command) (n : Nat) (hr : s.rst = []) :
    EngineInv (offered c n s) := by
  have := inv_of_inputs h [.present c] [] (List.replicate n false)
  rw [offered, ← hr] at *
  exact this

theorem offered_presents {s : State} {c : Command} {n : Nat} (hs : s.seq = .idle) (hr : s.rst = [])
    (hc : Data.fitTo s.width.bits c.data = c.data) : Presents c (offered c n s) := by
  refine ⟨hs, by simp [rstNow, offered, hr], ?_⟩
  simp only [presented, offered, onBus, hc]

theorem offered_callsOk (c : Command) (n : Nat) (s : State) : CallsOk n (offered c n s) := ⟨[], by simp [offered]⟩
theorem noReset_of_nil {s : State} (h : s.rst = []) (n : Nat) : NoReset n s := by intro k _; simp [h]

theorem witness_ResetStepLeavesResetValues :
    rstNow { lowRunning false with rst := [true] } = true ∧
      presented { lowRunning false with rst := [true], host := [.present (word 7)] } = some (word 7) ∧
      rstNow { faulted with rst := [true] } = true := by decide

theorem witness_HoldingResetChangesNothingMore :
    rstNow { i0 with rst := [true, true] } = true ∧
      ∃ t, step { i0 with rst := [true, true] } = .next t ∧ rstNow t = true := by
  exact ⟨rfl, _, rfl, rfl⟩

theorem witness_ResetDropsTheSequence :
    (lowRunning false).seq = .run .llStcp [.llDs, .llShcp] ∧
      rstNow { lowRunning false with rst := [true], host := [.wait] } = true ∧
      ∃ t, step { lowRunning false with rst := [true], host := [.wait] } = .next t ∧ NoReset 3 t ∧
        ∀ m, m ∈ t.host → m = .wait :=
  ⟨rfl, rfl, _, rfl, noReset_of_nil rfl 3, fun _ h => absurd h (by simp [lowRunning, hostAfterStep, resetAction, tick])⟩

theorem witness_StepRunsDecodedInstruction :
    Presents (word 0x0702) (offered (word 0x0702) 0 i0) ∧ decode (word 0x0702) = .ok (.testBit 7) := by
  exact ⟨offered_presents rfl rfl (by decide), by decide⟩

theorem witness_IllegalWordRaisesReservedEncoding :
    (∀ w ∈ [0x0000#16, 0x0009, 0x000F, 0x0012, 0x0103, 0x0101], Presents (word w) (offered (word w) 0 i0)) ∧
      (BitVec.extractLsb' 0 4 0x0000#16).toNat = 0 ∧ 9 ≤ (BitVec.extractLsb' 0 4 0x0009#16).toNat ∧
      BitVec.extractLsb' 4 4 0x0012#16 ≠ 0 ∧
      (BitVec.extractLsb' 8 8 0x0103#16 ≠ 0 ∧ (BitVec.extractLsb' 0 4 0x0103#16).toNat = 3) := by
  refine ⟨fun w _ => offered_presents rfl rfl rfl, by decide⟩

/-- Every result of `specCheck`, at the values where one check gives way to the next (E6, E7, E8, I8, I9, M1, M2). -/
theorem witness_AcceptanceReportsFirstFailingCheck :
    Presents (word 0x0011) (offered (word 0x0011) 0 State.reset) ∧
      specCheck (word 0x0011) State.reset = some .reservedEncoding ∧
      specCheck (word 0x0101) State.reset = some .reservedEncoding ∧
      specCheck (word 0x0802) State.reset = some .notInitialized ∧
      specCheck ⟨0x0001, 0, 0x05020302⟩ State.reset = some .invalidChainLength ∧
      specCheck ⟨0x0001, 0, 0x01020302⟩ State.reset = some .invalidPinAssignment ∧
      specCheck ⟨0x0001, 0, 0x05020302⟩ i0 = some .alreadyInitialized ∧
      specCheck (word 0x0802) i0 = some .invalidIndex ∧ specCheck (word 0x0702) i0 = none ∧
      specCheck ⟨0x0001, 0, 0x04040302⟩ State.reset = none := by
  exact ⟨offered_presents rfl rfl (by decide), by decide⟩

theorem witness_IdleAndFaultedDoNothing :
    rstNow faulted = false ∧ faulted.seq = .faulted ∧ rstNow i0 = false ∧ i0.seq = .idle ∧ presented i0 = none ∧
      presented { faulted with host := [.present (word 2)] } = some (word 2) := by decide

theorem witness_FaultedUntilReset :
    faulted.seq = .faulted ∧ NoReset 5 { faulted with host := [.present (word 2)] } ∧
      rstNow { faulted with rst := [true] } = true := ⟨rfl, noReset_of_nil rfl 5, rfl⟩

theorem witness_CommandWaitsUntilAccepted :
    (∃ t, step (offered (word 3) 0 i0) = .next t ∧ (offered (word 3) 0 i0).seq = .idle) ∧
      ∃ t, step { lowRunning false with host := [.present (word 3)] } = .next t := ⟨⟨_, rfl, rfl⟩, _, rfl⟩

theorem witness_AtMostOneCallPerStep :
    (∃ t, step i0 = .next t ∧ t.ioCall = none) ∧
      ∃ t, step (lowRunning false) = .next t ∧ t.ioCall = some (.write 4 false) := ⟨⟨_, rfl, rfl⟩, _, rfl, rfl⟩

theorem witness_SequencerStepIssuesHead :
    (lowRunning false).seq = .run .llStcp [.llDs, .llShcp] ∧ rstNow (lowRunning false) = false ∧
      ioFailNow (lowRunning false) = false ∧ ioFailNow (lowRunning true) = true ∧
      i0.seq = .idle ∧ ∃ t, step i0 = .next t := ⟨rfl, rfl, rfl, rfl, rfl, _, rfl⟩

theorem witness_FailedCallEndsTheCommand :
    (lowRunning true).seq = .run .llStcp [.llDs, .llShcp] ∧ rstNow (lowRunning true) = false ∧
      ioFailNow (lowRunning true) = true ∧ pinsWf (lowRunning true).pins = true ∧
      ∃ t, step (lowRunning true) = .next t ∧ NoReset 3 t :=
  ⟨rfl, rfl, rfl, i0_inv.8, _, rfl, noReset_of_nil rfl 3⟩

theorem witness_DecodeOfEncodeIsTheCommand :
    (Instr.init 255 0 1 255 0xFFFFFFFF).wellFormed Config.resetWidth = true ∧
      (Instr.testBit 255).wellFormed Config.resetWidth = true ∧
      (Instr.writeBits 0xFF).wellFormed ⟨1, by decide⟩ = true := by decide

theorem witness_EncodeOfDecodeIsTheWord :
    decode ⟨0x0502, 9, 9⟩ = .ok (.testBit 5) ∧ decode ⟨0x0006, 9, 0⟩ = .ok (.writeBits 9) := by decide

theorem witness_OpcodeMapAndOperandFields :
    (9 ≤ (9#4).toNat) ∧ (9 ≤ (15#4).toNat) ∧ ¬ (9 ≤ (8#4).toNat) := by decide

theorem witness_AssemblerWordsAndRefusals :
    (∃ i, assemble Config.resetWidth (.init 255 0 1 255 0xFFFFFFFF) = some [i]) ∧
      assemble Config.resetWidth (.init 256 0 1 1 0) = none ∧ assemble Config.resetWidth (.init 0 1 2 256 0) = none ∧
      (∃ i, assemble Config.resetWidth (.writeBit 255 0) = some [i]) ∧
      assemble Config.resetWidth (.writeBit 255 0x100000000) = none ∧
      assemble Config.resetWidth (.invertBit 256) = none ∧
      (∃ i, assemble Config.resetWidth (.writeBits 0xFFFFFFFF) = some [i]) ∧
      assemble Config.resetWidth .push = some [.latchLow, .latchHigh] :=
  ⟨⟨_, rfl⟩, rfl, rfl, ⟨_, rfl⟩, rfl, rfl, ⟨_, rfl⟩, rfl⟩

theorem witness_CommandsBeforeInitFault :
    State.reset.configured = false ∧ ∀ ds shcp stcp l v, Instr.latchHigh ≠ .init ds shcp stcp l v :=
  ⟨rfl, by simp⟩

theorem witness_SecondInitFaults : i0.configured = true := rfl

theorem witness_BadChainLengthFaults :
    State.reset.configured = false ∧ 8 * (5 : Byte).toNat > State.reset.width.bits ∧
      ¬ 8 * (4 : Byte).toNat > State.reset.width.bits := by decide

theorem witness_EqualPinsFault :
    (4 : Byte) ≠ 0 ∧ 8 * (4 : Byte).toNat ≤ State.reset.width.bits ∧ State.reset.configured = false ∧
      checkInit 3 3 4 1 State.reset = some .invalidPinAssignment ∧
      checkInit 4 3 4 1 State.reset = some .invalidPinAssignment ∧
      checkInit 2 4 4 1 State.reset = some .invalidPinAssignment := by decide

theorem witness_IndexOutOfRangeFaults :
    i0.configured = true ∧ shiftWidth i0 ≤ (8 : Byte).toNat ∧ shiftWidth i0 ≤ (255 : Byte).toNat ∧
      ¬ shiftWidth i0 ≤ (7 : Byte).toNat := by decide

theorem witness_CheckFaultIsPrecise : ∃ t, exec .testAll State.reset = .next t ∧ t.seq = .faulted := ⟨_, rfl, rfl⟩

theorem witness_InitStoresAndStartsThePush :
    State.reset.configured = false ∧ 1 ≤ (4 : Byte).toNat ∧ 8 * (4 : Byte).toNat ≤ State.reset.width.bits ∧
      (2 : Byte) ≠ 3 ∧ (2 : Byte) ≠ 4 ∧ (3 : Byte) ≠ 4 ∧ Data.fits State.reset.width 0xFFFFFFFF = true := by decide

theorem witness_TestBitReadsOneBit :
    i0.configured = true ∧ (0 : Byte).toNat < shiftWidth i0 ∧ (7 : Byte).toNat < shiftWidth i0 ∧
      State.reset.configured = false ∧ shiftWidth i0 ≤ (8 : Byte).toNat ∧
      Presents (word 0x0012) (offered (word 0x0012) 0 i0) :=
  ⟨rfl, by decide, by decide, rfl, by decide, offered_presents rfl rfl (by decide)⟩

theorem witness_TestAllReadsTheMirror :
    i0.configured = true ∧ State.reset.configured = false ∧ Presents (word 0x0103) (offered (word 0x0103) 0 i0) ∧
      BitVec.extractLsb' 0 4 0x0103#16 = 3 ∧ 0x0103#16 ≠ 0x0003 :=
  ⟨rfl, rfl, offered_presents rfl rfl (by decide), by decide, by decide⟩

theorem witness_WriteBitWritesOneBit :
    i0.configured = true ∧ (7 : Byte).toNat < shiftWidth i0 ∧ Data.fits i0.width 0xFFFFFFFF = true ∧
      Data.fits i0.width 0 = true ∧ State.reset.configured = false ∧ shiftWidth i0 ≤ (8 : Byte).toNat ∧
      Presents (word 0x0014) (offered (word 0x0014) 0 i0) :=
  ⟨rfl, by decide, by decide, by decide, rfl, by decide, offered_presents rfl rfl (by decide)⟩

theorem witness_InvertBitComplementsOneBit :
    i0.configured = true ∧ (7 : Byte).toNat < shiftWidth i0 ∧ State.reset.configured = false ∧
      shiftWidth i0 ≤ (8 : Byte).toNat ∧ Presents (word 0x0015) (offered (word 0x0015) 0 i0) ∧
      (ready 0x80 highEvents).configured = true ∧ shiftWidth (ready 0x80 highEvents) = shiftWidth i0 ∧
      readMirror (ready 0x80 highEvents) = 0x80 :=
  ⟨rfl, by decide, rfl, by decide, offered_presents rfl rfl (by decide), rfl, rfl, rfl⟩

theorem witness_WriteBitsReplacesTheMirror : i0.configured = true ∧ Data.fits i0.width 0xFFFFFFFF = true := by decide

theorem witness_LatchLowStartsLowOps : i0.configured = true := rfl

theorem witness_LatchHighStartsHighOps : i0.configured = true ∧ 1 ≤ shiftWidth i0 := by decide

/-- One command outside each exclusion of the frame, and a next state that is not faulted. -/
theorem witness_AcceptanceFrame :
    (∃ t, exec .latchLow i0 = .next t ∧ t.seq ≠ .faulted) ∧
      (∀ ds shcp stcp l v, Instr.latchLow ≠ .init ds shcp stcp l v) ∧ (∀ x, Instr.latchLow ≠ .testBit x) ∧
      Instr.latchLow ≠ .testAll ∧ (∀ x v, Instr.latchLow ≠ .writeBit x v) ∧ (∀ x, Instr.latchLow ≠ .invertBit x) ∧
      ∀ v, Instr.latchLow ≠ .writeBits v :=
  ⟨⟨_, rfl, by decide⟩, by simp, by simp, by simp, by simp, by simp, by simp⟩

theorem witness_MirrorCommandsTouchNoPin :
    (∃ t, exec (.testBit 7) i0 = .next t ∧ t.seq = .idle) ∧ (∃ t, exec (.testBit 8) i0 = .next t ∧ t.seq = .faulted) ∧
      State.reset.configured = false := ⟨⟨_, rfl, rfl⟩, ⟨_, rfl, rfl⟩, rfl⟩

theorem witness_BitWritesSeenByTestBit :
    i0.configured = true ∧ (0 : Byte).toNat < shiftWidth i0 ∧ (7 : Byte).toNat < shiftWidth i0 ∧
      Data.fits i0.width 0xFFFFFFFF = true := by decide

theorem witness_WriteBitsThenTestAllReturnsIt :
    i0.configured = true ∧ Data.fits i0.width 0xFFFFFFFF = true ∧
      NoReset (4 * shiftWidth i0 + 4) (offered (word 6) 36 i0) ∧
      CallsOk (4 * shiftWidth i0 + 4) (offered (word 6) 36 i0) :=
  ⟨rfl, by decide, noReset_of_nil rfl _, offered_callsOk _ 36 _⟩

theorem witness_MicroOperationCalls :
    i0.cfgDs = some 2 ∧ i0.cfgShcp = some 3 ∧ i0.cfgStcp = some 4 ∧ i0.mirror = some 0 := by decide

theorem witness_SequenceRunsToItsEnd :
    (lowRunning false).seq = .run .llStcp [.llDs, .llShcp] ∧ NoReset (2 + 1) (lowRunning false) ∧
      CallsOk (2 + 1) (lowRunning false) ∧ (1 ≤ 2 ∧ 2 ≤ [MicroOp.llDs, .llShcp].length) :=
  ⟨rfl, noReset_of_nil rfl _, ⟨[], rfl⟩, by decide⟩

/-- A command that takes one step, the longest at `L = 1`, and a fault at acceptance. -/
theorem witness_StepCountsOfEveryCommand :
    Presents (word 0x0702) (offered (word 0x0702) 0 i0) ∧ decode (word 0x0702) = .ok (.testBit 7) ∧
      specCheck (word 0x0702) (offered (word 0x0702) 0 i0) = none ∧
      Presents ⟨0x0001, 3, 0x01040302⟩ (offered ⟨0x0001, 3, 0x01040302⟩ 39 State.reset) ∧
      decode ⟨0x0001, 3, 0x01040302⟩ = .ok (.init 2 3 4 1 3) ∧
      specCheck ⟨0x0001, 3, 0x01040302⟩ (offered ⟨0x0001, 3, 0x01040302⟩ 39 State.reset) = none ∧
      callsOf (.init 2 3 4 1 3) (widthFor (.init 2 3 4 1 3) State.reset) = 39 ∧
      CallsOk 39 (offered ⟨0x0001, 3, 0x01040302⟩ 39 State.reset) ∧
      NoReset 40 (offered ⟨0x0001, 3, 0x01040302⟩ 39 State.reset) ∧
      specCheck (word 0x0802) (offered (word 0x0802) 0 i0) ≠ none :=
  ⟨offered_presents rfl rfl (by decide), by decide, by decide, offered_presents rfl rfl (by decide), by decide,
    by decide, by decide, offered_callsOk _ 39 _, noReset_of_nil rfl _, by decide⟩

/-- WRITE_BITS, LATCH_LOW, INIT and a mirror command; the next witness is LATCH_HIGH's. -/
theorem witness_TracesOfTheOtherCommands :
    (Presents ⟨6, 0x1FF, 0⟩ (offered ⟨6, 0x1FF, 0⟩ 36 i0) ∧ decode ⟨6, 0x1FF, 0⟩ = .ok (.writeBits 0x1FF) ∧
      specCheck ⟨6, 0x1FF, 0⟩ (offered ⟨6, 0x1FF, 0⟩ 36 i0) = none ∧
      callsOf (.writeBits 0x1FF) (widthFor (.writeBits 0x1FF) i0) = 36 ∧
      NoReset 37 (offered ⟨6, 0x1FF, 0⟩ 36 i0) ∧ CallsOk 36 (offered ⟨6, 0x1FF, 0⟩ 36 i0)) ∧
    (Presents (word 7) (offered (word 7) 3 i0) ∧ decode (word 7) = .ok .latchLow ∧
      specCheck (word 7) (offered (word 7) 3 i0) = none ∧ callsOf .latchLow (widthFor .latchLow i0) = 3 ∧
      NoReset 4 (offered (word 7) 3 i0) ∧ CallsOk 3 (offered (word 7) 3 i0)) ∧
    (Presents ⟨1, 3, 0x04040302⟩ (offered ⟨1, 3, 0x04040302⟩ 135 afterReset) ∧
      decode ⟨1, 3, 0x04040302⟩ = .ok (.init 2 3 4 4 3) ∧
      specCheck ⟨1, 3, 0x04040302⟩ (offered ⟨1, 3, 0x04040302⟩ 135 afterReset) = none ∧
      callsOf (.init 2 3 4 4 3) (widthFor (.init 2 3 4 4 3) afterReset) = 135 ∧
      NoReset 136 (offered ⟨1, 3, 0x04040302⟩ 135 afterReset) ∧ CallsOk 135 (offered ⟨1, 3, 0x04040302⟩ 135 afterReset)) ∧
    (Presents (word 3) (offered (word 3) 0 i0) ∧ decode (word 3) = .ok .testAll ∧
      specCheck (word 3) (offered (word 3) 0 i0) = none ∧ callsOf .testAll (widthFor .testAll i0) = 0) :=
  ⟨⟨offered_presents rfl rfl (by decide), by decide, by decide, by decide, noReset_of_nil rfl _, offered_callsOk _ 36 _⟩,
    ⟨offered_presents rfl rfl (by decide), by decide, by decide, by decide, noReset_of_nil rfl _, offered_callsOk _ 3 _⟩,
    ⟨offered_presents rfl rfl (by decide), by decide, by decide, by decide, noReset_of_nil rfl _, offered_callsOk _ 135 _⟩,
    offered_presents rfl rfl (by decide), by decide, by decide, by decide⟩

theorem witness_TracesOfThePushingCommands :
    Presents (word 0x0008) (offered (word 0x0008) 33 i0) ∧ decode (word 0x0008) = .ok .latchHigh ∧
      specCheck (word 0x0008) (offered (word 0x0008) 33 i0) = none ∧
      callsOf .latchHigh (widthFor .latchHigh i0) = 33 ∧ NoReset 34 (offered (word 0x0008) 33 i0) ∧
      CallsOk 33 (offered (word 0x0008) 33 i0) :=
  ⟨offered_presents rfl rfl (by decide), by decide, by decide, by decide, noReset_of_nil rfl _, offered_callsOk _ 33 _⟩

theorem witness_LevelsAfterEachList :
    ConfigLegal i0 ∧ pinsWf i0.pins = true ∧ (lowRunning false).seq = seqOf lowOps ∧
      NoReset lowOps.length (lowRunning false) ∧ CallsOk lowOps.length (lowRunning false) ∧
      ∀ ops : List MicroOp, ConfigLegal { i0 with seq := seqOf ops, ioFail := List.replicate ops.length false } ∧
        CallsOk ops.length { i0 with seq := seqOf ops, ioFail := List.replicate ops.length false } :=
  ⟨(i0_inv.3 rfl).1, i0_inv.8, rfl, noReset_of_nil rfl _, ⟨[], rfl⟩,
    fun _ => ⟨(i0_inv.3 rfl).1, [], by simp⟩⟩

theorem witness_HighBitsAreNeverShifted :
    ∀ i, i < 8 → (0x1FF : Data).getLsbD i = (0xFF : Data).getLsbD i := by decide

theorem witness_CallEffectOnThePins : pinsWf i0.pins = true ∧ (5 : Byte) ≠ callPin (.write 4 true) := ⟨i0_inv.8, by decide⟩

theorem witness_NoWriteToUnconfiguredPin :
    EngineInv (lowRunning false) ∧ ∃ t, step (lowRunning false) = .next t ∧ t.ioCall = some (.write 4 false) :=
  ⟨lowRunning_inv, _, rfl, rfl⟩

theorem witness_EngineNeverReadsThePins : ∃ t, step (lowRunning false) = .next t := ⟨_, rfl⟩

theorem witness_EveryStepKeepsTheInvariant :
    EngineInv (lowRunning false) ∧ EngineInv i0 ∧ ∃ t, step (lowRunning false) = .next t :=
  ⟨lowRunning_inv, i0_inv, _, rfl⟩

theorem witness_ConfigurationIsImmutable :
    i0.configured = true ∧ rstNow i0 = false ∧ ∃ t, step (offered (word 7) 3 i0) = .next t := ⟨rfl, rfl, _, rfl⟩

theorem witness_WritersOfMirrorAndResult :
    (∃ t, step (offered ⟨0x0504, 1, 0⟩ 0 i0) = .next t ∧ t.mirror ≠ i0.mirror) ∧
      ∃ t, step (offered (word 3) 0 i0) = .next t ∧ t.result ≠ i0.result :=
  ⟨⟨_, rfl, by decide⟩, _, rfl, by decide⟩

theorem witness_StatusWordLayout :
    EngineInv i0 ∧ (status i0).getLsbD 2 = false ∧ i0.ioCall = none ∧
      ({ i0 with ioCall := some (.config 3) } : State).ioCall = some (.config 3) ∧
      ({ i0 with ioCall := some (.write 4 true) } : State).ioCall = some (.write 4 true) :=
  ⟨i0_inv, by decide, rfl, rfl, rfl⟩

/-- Both starting levels of the latch clock. -/
theorem witness_LatchHighLoadsTheChain :
    EngineInv (offered (word 8) 33 (ready 3 lowEvents)) ∧ Presents (word 8) (offered (word 8) 33 (ready 3 lowEvents)) ∧
      NoReset 34 (offered (word 8) 33 (ready 3 lowEvents)) ∧ CallsOk 33 (offered (word 8) 33 (ready 3 lowEvents)) ∧
      shiftWidth (ready 3 lowEvents) = 8 ∧ pinLevel (ready 3 lowEvents) (readStcp (ready 3 lowEvents)) = .low ∧
      EngineInv (offered (word 8) 33 i0) ∧ pinLevel i0 (readStcp i0) = .high :=
  ⟨offered_inv readyLow_inv _ _ rfl, offered_presents rfl rfl (by decide), noReset_of_nil rfl _, offered_callsOk _ 33 _,
    by decide, by decide, offered_inv i0_inv _ _ rfl, by decide⟩

theorem witness_WriteBitsShowsOnTheChain :
    EngineInv (offered ⟨6, 0x1FF, 0⟩ 36 i0) ∧ Presents ⟨6, 0x1FF, 0⟩ (offered ⟨6, 0x1FF, 0⟩ 36 i0) ∧
      i0.configured = true ∧ NoReset (4 * shiftWidth i0 + 5) (offered ⟨6, 0x1FF, 0⟩ 36 i0) ∧
      CallsOk (4 * shiftWidth i0 + 4) (offered ⟨6, 0x1FF, 0⟩ 36 i0) :=
  ⟨offered_inv i0_inv _ _ rfl, offered_presents rfl rfl (by decide), rfl, noReset_of_nil rfl _, offered_callsOk _ 36 _⟩

theorem afterReset_inv : EngineInv afterReset :=
  ⟨trivial, trivial, fun h => by simp [afterReset, State.reset, State.powerOn] at h,
    fun _ => ⟨rfl, rfl, rfl, rfl, rfl, rfl⟩, by decide, trivial,
    fun h => by simp [afterReset, State.reset, State.powerOn] at h, foldl_applyEvent_wf rfl highEvents, rfl⟩

theorem witness_InitShowsOnTheChain :
    EngineInv (offered ⟨1, 3, 0x01040302⟩ 39 afterReset) ∧
      Presents ⟨1, 3, 0x01040302⟩ (offered ⟨1, 3, 0x01040302⟩ 39 afterReset) ∧
      specCheck ⟨1, 3, 0x01040302⟩ (offered ⟨1, 3, 0x01040302⟩ 39 afterReset) = none ∧
      decode ⟨1, 3, 0x01040302⟩ = .ok (.init 2 3 4 1 3) ∧
      NoReset (4 * (8 * (1 : Byte).toNat) + 8) (offered ⟨1, 3, 0x01040302⟩ 39 afterReset) ∧
      CallsOk (4 * (8 * (1 : Byte).toNat) + 7) (offered ⟨1, 3, 0x01040302⟩ 39 afterReset) :=
  ⟨offered_inv afterReset_inv _ _ rfl, offered_presents rfl rfl (by decide), by decide, by decide, noReset_of_nil rfl _,
    offered_callsOk _ 39 _⟩

theorem witness_LatchLowTransfersNothing :
    EngineInv (offered (word 7) 3 i0) ∧ Presents (word 7) (offered (word 7) 3 i0) ∧ i0.configured = true ∧
      NoReset 4 (offered (word 7) 3 i0) ∧ CallsOk 3 (offered (word 7) 3 i0) :=
  ⟨offered_inv i0_inv _ _ rfl, offered_presents rfl rfl (by decide), rfl, noReset_of_nil rfl _, offered_callsOk _ 3 _⟩

/-- The three commands, at the first and the last step each clause speaks of, LATCH_HIGH from a low latch clock. -/
theorem witness_OutputsHeldDuringThePush :
    (EngineInv (offered ⟨6, 0xFF, 0⟩ 36 i0) ∧ Presents ⟨6, 0xFF, 0⟩ (offered ⟨6, 0xFF, 0⟩ 36 i0) ∧
      decode ⟨6, 0xFF, 0⟩ = .ok (.writeBits 0xFF) ∧ specCheck ⟨6, 0xFF, 0⟩ (offered ⟨6, 0xFF, 0⟩ 36 i0) = none ∧
      callsOf (.writeBits 0xFF) (widthFor (.writeBits 0xFF) i0) = 36 ∧ NoReset 37 (offered ⟨6, 0xFF, 0⟩ 36 i0) ∧
      CallsOk 36 (offered ⟨6, 0xFF, 0⟩ 36 i0) ∧ 2 ≤ 36) ∧
    (EngineInv (offered (word 8) 33 (ready 3 lowEvents)) ∧ Presents (word 8) (offered (word 8) 33 (ready 3 lowEvents)) ∧
      decode (word 8) = .ok .latchHigh ∧ specCheck (word 8) (offered (word 8) 33 (ready 3 lowEvents)) = none ∧
      callsOf .latchHigh (widthFor .latchHigh (ready 3 lowEvents)) = 33 ∧
      NoReset 34 (offered (word 8) 33 (ready 3 lowEvents)) ∧ CallsOk 33 (offered (word 8) 33 (ready 3 lowEvents)) ∧
      pinLevel (ready 3 lowEvents) (wiringFor .latchHigh (ready 3 lowEvents)).stcp = .low) ∧
    (EngineInv (offered ⟨1, 3, 0x01040302⟩ 39 afterReset) ∧
      Presents ⟨1, 3, 0x01040302⟩ (offered ⟨1, 3, 0x01040302⟩ 39 afterReset) ∧
      decode ⟨1, 3, 0x01040302⟩ = .ok (.init 2 3 4 1 3) ∧
      specCheck ⟨1, 3, 0x01040302⟩ (offered ⟨1, 3, 0x01040302⟩ 39 afterReset) = none ∧
      callsOf (.init 2 3 4 1 3) (widthFor (.init 2 3 4 1 3) afterReset) = 39 ∧
      NoReset 40 (offered ⟨1, 3, 0x01040302⟩ 39 afterReset) ∧ CallsOk 39 (offered ⟨1, 3, 0x01040302⟩ 39 afterReset) ∧
      5 ≤ 39) :=
  ⟨⟨offered_inv i0_inv _ _ rfl, offered_presents rfl rfl (by decide), by decide, by decide, by decide,
      noReset_of_nil rfl _, offered_callsOk _ 36 _, by decide⟩,
    ⟨offered_inv readyLow_inv _ _ rfl, offered_presents rfl rfl (by decide), by decide, by decide, by decide,
      noReset_of_nil rfl _, offered_callsOk _ 33 _, by decide⟩,
    offered_inv afterReset_inv _ _ rfl, offered_presents rfl rfl (by decide), by decide, by decide, by decide,
    noReset_of_nil rfl _, offered_callsOk _ 39 _, by decide⟩

end Sys2Proof.Tests
end

/-! ## The mirror commands (41_mirror.md)

Every mirror command is one acceptance step: a failed check leaves `faultedBy` of its cause, a passed one runs the body,
which writes one register and completes. -/

namespace Sys2Proof

/-- Complementing the same bit twice gives the value back (R75, R76). -/
theorem Data.setBit_not_bit_involutive (v : Data) {i : Nat} (hi : i < 256) :
    (v.setBit i (!v.bit i)).setBit i (!(v.setBit i (!v.bit i)).bit i) = v := by
  apply Data.ext_bit
  intro j
  by_cases hj : j = i <;> simp [Data.bit_setBit _ _ _ hi, hj]

/-- A word whose `RSV` is not zero is illegal (R59). -/
theorem decode_of_rsv_ne_zero {c : Command} (h : CmdWord.rsv c.cmd ≠ 0) : decode c = .error .reservedField :=
  if_neg h

/-- The only legal word with `OP = 3` is TEST_ALL's (R59, R73). -/
theorem cmd_of_decode_op_three {c : Command} {i : Instr} (hop : CmdWord.op c.cmd = 3) (h : decode c = .ok i) :
    c.cmd = 0x0003 := by
  obtain ⟨hrsv, hbody⟩ := decode_eq_ok.1 h
  have hidx : CmdWord.idx c.cmd = 0 := by
    simp only [decodeOpcode, hop] at hbody
    exact (withoutIndex_eq_ok.1 hbody).1
  calc c.cmd = cmdWord (CmdWord.idx c.cmd) (CmdWord.op c.cmd) := (cmdWord_fields c.cmd hrsv).symm
    _ = 0x0003 := by rw [hidx, hop]; rfl

end Sys2Proof

namespace Sys2Proof.Machine

/-! ### The acceptance step by the outcome of its check (R62, R119) -/

/-- A command whose check fails changes only `CUR`, `CNT` and the fault record (R122). -/
theorem exec_of_checkOf_eq_some {i : Instr} {s : State} {k : Cause} (h : checkOf i s = some k) :
    exec i s = .next (faultedBy k (encodeWord i) s) := by
  rcases exec_cases i s with ⟨k', -, hk', hexec⟩ | ⟨hnone, -⟩
  · cases hk'.symm.trans h
    exact hexec
  · simp [hnone] at h

/-- A command whose check passes runs its body. -/
theorem exec_of_checkOf_eq_none {i : Instr} {s : State} (h : checkOf i s = none) :
    exec i s = .next (bodyOf i (acceptWord (encodeWord i) s)) := by
  rcases exec_cases i s with ⟨k, -, hk, -⟩ | ⟨-, hexec⟩
  · simp [hk] at h
  · exact hexec

theorem checkConfigured_of_unconfigured {s : State} (h : s.configured = false) :
    checkConfigured s = some .notInitialized := by
  simp [checkConfigured_eq, h]

theorem checkIndex_of_unconfigured {i : Byte} {s : State} (h : s.configured = false) :
    checkIndex i s = some .notInitialized := by
  simp [checkIndex_eq, h]

theorem checkIndex_of_shiftWidth_le {i : Byte} {s : State} (hc : s.configured = true) (hi : shiftWidth s ≤ i.toNat) :
    checkIndex i s = some .invalidIndex := by
  simp [checkIndex_eq, hc, hi]

/-- An illegal word on the port of the idle engine raises RESERVED_ENCODING (R112). -/
theorem step_of_decode_error {c : Command} {s : State} {e : DecodeError} (hp : Presents c s)
    (he : decode c = .error e) :
    ∃ t, step s = .next t ∧ t.seq = .faulted ∧ t.cause = .reservedEncoding := by
  refine ⟨rejectWord c.cmd (takeCommand (tick s)), ?_, rfl, rfl⟩
  rw [step_presents hp, acceptStep, he]

theorem step_of_rsv_ne_zero {c : Command} {s : State} (hp : Presents c s) (h : c.cmd.extractLsb' 4 4 ≠ 0) :
    ∃ t, step s = .next t ∧ t.seq = .faulted ∧ t.cause = .reservedEncoding :=
  step_of_decode_error hp (decode_of_rsv_ne_zero h)

/-- The operand of WRITE_BIT is tested as it stands when it fits the bus (R74). -/
theorem bitOperand_of_fits {s : State} {v : Data} (h : Data.fits s.width v = true) :
    bitOperand s v = decide (v ≠ 0) := by
  rw [bitOperand, dataOperand, Data.fitTo_of_lt ((Data.fits_iff _ _).1 h)]

/-! ### What the mirror commands have in common (R71) -/

/-- The four commands of 41_mirror.md. -/
def IsMirrorCommand (i : Instr) : Prop :=
  (∃ x, i = .testBit x) ∨ i = .testAll ∨ (∃ x v, i = .writeBit x v) ∨ ∃ x, i = .invertBit x

theorem IsMirrorCommand.checkOf_of_unconfigured {i : Instr} (hi : IsMirrorCommand i) {s : State}
    (h : s.configured = false) : checkOf i s = some .notInitialized := by
  rcases hi with ⟨x, rfl⟩ | rfl | ⟨x, v, rfl⟩ | ⟨x, rfl⟩
  · exact checkIndex_of_unconfigured h
  · exact checkConfigured_of_unconfigured h
  · exact checkIndex_of_unconfigured h
  · exact checkIndex_of_unconfigured h

/-- A mirror command's body writes one of `RESULT` and `R`, and completes (R71). -/
theorem IsMirrorCommand.bodyOf_eq {i : Instr} (hi : IsMirrorCommand i) (s : State) :
    ∃ v, bodyOf i s = complete (setResult v s) ∨ bodyOf i s = complete (setMirror v s) := by
  rcases hi with ⟨x, rfl⟩ | rfl | ⟨x, v, rfl⟩ | ⟨x, rfl⟩
  · exact ⟨_, .inl rfl⟩
  · exact ⟨_, .inl rfl⟩
  · exact ⟨_, .inr rfl⟩
  · exact ⟨_, .inr rfl⟩

/-! ### The obligations -/

/-- Settles O32: the body sets bit `i` of `R` to the tested operand, which fits the bus. -/
theorem writeBitWritesOneBit : Obligations.WriteBitWritesOneBit := by
  intro i v s
  refine ⟨fun hc hi hv => ?_, fun hc => exec_of_checkOf_eq_some (checkIndex_of_unconfigured hc),
    fun hc hi => exec_of_checkOf_eq_some (checkIndex_of_shiftWidth_le hc hi),
    fun c hp _ hr => step_of_rsv_ne_zero hp hr⟩
  refine ⟨(readMirror s).setBit i.toNat (bitOperand s v),
    exec_of_checkOf_eq_none (checkIndex_eq_none.2 ⟨hc, hi⟩), fun j => ?_⟩
  rw [← bitOperand_of_fits hv]
  exact Data.bit_setBit _ _ _ i.isLt j

/-- Settles O33: the body sets bit `i` of `R` to its complement, which is undone by doing it again. -/
theorem invertBitComplementsOneBit : Obligations.InvertBitComplementsOneBit := by
  intro i s
  refine ⟨fun hc hi => ?_, fun hc => exec_of_checkOf_eq_some (checkIndex_of_unconfigured hc),
    fun hc hi => exec_of_checkOf_eq_some (checkIndex_of_shiftWidth_le hc hi),
    fun c hp _ hr => step_of_rsv_ne_zero hp hr⟩
  refine ⟨(readMirror s).setBit i.toNat (!(readMirror s).bit i.toNat),
    exec_of_checkOf_eq_none (checkIndex_eq_none.2 ⟨hc, hi⟩), fun j => ?_, fun t htc htw htm => ?_⟩
  · have hbit := Data.bit_setBit (readMirror s) i.toNat (!(readMirror s).bit i.toNat) i.isLt j
    by_cases hj : j = i.toNat
    · subst hj; exact hbit
    · rw [if_neg hj] at hbit ⊢; exact hbit
  · refine ⟨_, exec_of_checkOf_eq_none (checkIndex_eq_none.2 ⟨htc, htw ▸ hi⟩), ?_⟩
    calc readMirror (bodyOf (.invertBit i) (acceptWord (encodeWord (.invertBit i)) t))
        = (readMirror t).setBit i.toNat (!(readMirror t).bit i.toNat) := rfl
      _ = readMirror s := by rw [htm]; exact Data.setBit_not_bit_involutive _ i.isLt

/-- Settles O38: a failed check faults, and a passed one runs a body that writes one register and completes. -/
theorem mirrorCommandsTouchNoPin : Obligations.MirrorCommandsTouchNoPin := by
  intro i s t hi ht
  replace hi : IsMirrorCommand i := hi
  cases hcheck : checkOf i s with
  | some k =>
    cases (exec_of_checkOf_eq_some hcheck).symm.trans ht
    refine ⟨.inr rfl, rfl, rfl, rfl, rfl, rfl, fun hc => ⟨rfl, ?_⟩, nofun⟩
    exact Option.some.inj (hcheck.symm.trans (hi.checkOf_of_unconfigured hc))
  | none =>
    have hc : s.configured ≠ false := fun hc => by simp [hi.checkOf_of_unconfigured hc] at hcheck
    cases (exec_of_checkOf_eq_none hcheck).symm.trans ht
    obtain ⟨v, hbody | hbody⟩ := hi.bodyOf_eq (acceptWord (encodeWord i) s) <;> rw [hbody] <;>
      exact ⟨.inl rfl, rfl, rfl, rfl, rfl, rfl, fun h => absurd h hc, fun _ => ⟨rfl, rfl⟩⟩

/-- Settles O30: the body writes the bit of `R` to `RESULT`. -/
theorem testBitReadsOneBit : Obligations.TestBitReadsOneBit := fun _ _ =>
  ⟨fun hc hi => exec_of_checkOf_eq_none (checkIndex_eq_none.2 ⟨hc, hi⟩),
    fun hc => exec_of_checkOf_eq_some (checkIndex_of_unconfigured hc),
    fun hc hi => exec_of_checkOf_eq_some (checkIndex_of_shiftWidth_le hc hi),
    fun _ hp _ hr => step_of_rsv_ne_zero hp hr⟩

/-- Settles O31: the body writes `R` to `RESULT`; any other word with `OP = 3` does not decode. -/
theorem testAllReadsTheMirror : Obligations.TestAllReadsTheMirror := by
  intro s
  refine ⟨fun hc => exec_of_checkOf_eq_none (checkConfigured_eq_none.2 hc),
    fun hc => exec_of_checkOf_eq_some (checkConfigured_of_unconfigured hc), fun c hp hop hne => ?_⟩
  cases hd : decode c with
  | ok i => exact absurd (cmd_of_decode_op_three hop hd) hne
  | error e => exact step_of_decode_error hp hd

end Sys2Proof.Machine

/-! ## The push sequencer (42_push.md)

A platform call is issued by a sequencer step alone (R81): an acceptance step writes no `io_*` output. -/

namespace Sys2Proof.Machine

/-! ### Acceptance issues no call (R78, R81) -/

@[simp] theorem bodyOf_ioCall (i : Instr) (s : State) : (bodyOf i s).ioCall = s.ioCall := by
  cases i <;> rfl

/-- The meaning of a command answers a next state, in which no call was issued. -/
theorem exec_ioCall {i : Instr} {s t : State} (h : exec i s = .next t) : t.ioCall = s.ioCall := by
  rcases exec_cases i s with ⟨k, -, -, hexec⟩ | ⟨-, hexec⟩
  · cases hexec.symm.trans h
    rfl
  · cases hexec.symm.trans h
    exact bodyOf_ioCall i _

theorem acceptStep_ioCall {c : Command} {s t : State} (h : acceptStep c s = .next t) : t.ioCall = s.ioCall := by
  rcases acceptStep_cases c s with ⟨i, -, haccept⟩ | ⟨e, -, haccept⟩
  · exact (exec_ioCall (haccept.symm.trans h)).trans (takeCommand_ioCall s)
  · cases haccept.symm.trans h
    rfl

/-- A step of an idle engine has `io_valid = 0` (R81). -/
theorem step_ioCall_of_idle {s t : State} (hs : s.seq = .idle) (h : step s = .next t) : t.ioCall = none := by
  rcases step_cases s with ⟨-, hreset⟩ | ⟨-, op, rest, hrun, -⟩ | ⟨-, -, hnothing⟩ | ⟨-, -, c, -, haccept⟩
  · cases hreset.symm.trans h
    rfl
  · cases hs.symm.trans hrun
  · cases hnothing.symm.trans h
    rfl
  · exact (acceptStep_ioCall (haccept.symm.trans h)).trans (tick_ioCall s)

/-- Settles O13: the two outcomes of the sequencer step are `step_run_ok` and `step_run_fail`, field by field. -/
theorem sequencerStepIssuesHead : Obligations.SequencerStepIssuesHead := by
  refine ⟨fun s op rest hs hr => ⟨fun hok => ?_, fun hfail => step_run_fail hs hr hfail⟩, fun s t => step_ioCall_of_idle⟩
  have hempty : rest.isEmpty = decide (rest = []) := by cases rest <;> rfl
  rw [step_run_ok hs hr hok, advance, hempty]
  rfl

end Sys2Proof.Machine

/-! ## Faults (60_exceptions.md)

R119's `Check` decides the acceptance step: a cause leaves `faultedBy` of it, none runs the body of a legal command. A
faulted engine ticks until a reset. -/

namespace Sys2Proof

/-- A word whose `RSV` is zero is the command word of its other two fields (R54). -/
theorem cmdWord_eq {w : CmdWord} {idx : Byte} {op : BitVec 4} (hrsv : CmdWord.rsv w = 0) (hidx : CmdWord.idx w = idx)
    (hop : (CmdWord.op w).toNat = op.toNat) : cmdWord idx op = w := by
  rw [← hidx, ← BitVec.eq_of_toNat_eq hop]
  exact cmdWord_fields w hrsv

/-- A decoded word is the word of its command (R54, R59). -/
theorem encodeWord_of_decode {c : Command} {i : Instr} (h : decode c = .ok i) : encodeWord i = c.cmd := by
  obtain ⟨hrsv, hbody⟩ := decode_eq_ok.1 h
  unfold decodeOpcode at hbody
  split at hbody
  case h_1 hop | h_3 hop | h_6 hop | h_7 hop | h_8 hop =>
    obtain ⟨hidx, rfl⟩ := withoutIndex_eq_ok.1 hbody
    exact cmdWord_eq hrsv hidx hop
  case h_2 hop | h_4 hop | h_5 hop =>
    cases hbody
    exact cmdWord_eq hrsv rfl hop
  case h_9 => cases hbody

end Sys2Proof

namespace Sys2Proof.Machine

/-! ### The checks that fail (R113 to R117) -/

theorem checkOf_of_unconfigured {i : Instr} {s : State} (hi : ∀ ds shcp stcp l v, i ≠ .init ds shcp stcp l v)
    (h : s.configured = false) : checkOf i s = some .notInitialized := by
  cases i with
  | init ds shcp stcp l v => exact absurd rfl (hi ds shcp stcp l v)
  | testBit | writeBit | invertBit => exact checkIndex_of_unconfigured h
  | testAll | writeBits | latchLow | latchHigh => exact checkConfigured_of_unconfigured h

section Init
variable {ds shcp stcp l : Byte} {s : State}

theorem checkInit_of_configured (h : s.configured = true) : checkInit ds shcp stcp l s = some .alreadyInitialized :=
  if_pos h

theorem checkInit_of_unconfigured (h : s.configured = false) : checkInit ds shcp stcp l s =
    if l = 0 ∨ s.width.bits < 8 * l.toNat then some .invalidChainLength
    else if ds = shcp ∨ ds = stcp ∨ shcp = stcp then some .invalidPinAssignment
    else none :=
  if_neg (by simp [h])

end Init

/-- Settles O22: the check of every command but INIT asks for `CONFIGURED` first. -/
theorem commandsBeforeInitFault : Obligations.CommandsBeforeInitFault := fun _ _ hi hc =>
  exec_of_checkOf_eq_some (checkOf_of_unconfigured hi hc)

/-- Settles O23: INIT's check asks for `CONFIGURED = 0` first. -/
theorem secondInitFaults : Obligations.SecondInitFaults := fun _ _ _ _ _ _ hc =>
  exec_of_checkOf_eq_some (checkInit_of_configured hc)

/-- Settles O24: INIT's check of the length comes before that of the pins. -/
theorem badChainLengthFaults : Obligations.BadChainLengthFaults := fun _ _ _ _ _ _ hc hl =>
  exec_of_checkOf_eq_some ((checkInit_of_unconfigured hc).trans (if_pos hl))

/-- Settles O25: with a legal length, INIT's check is that of the pins. -/
theorem equalPinsFault : Obligations.EqualPinsFault := by
  intro ds shcp stcp l v s hc hl0 hl hpins
  have hlen : ¬ (l = 0 ∨ s.width.bits < 8 * l.toNat) := not_or.2 ⟨hl0, Nat.not_lt.2 hl⟩
  exact exec_of_checkOf_eq_some ((checkInit_of_unconfigured hc).trans ((if_neg hlen).trans (if_pos hpins)))

/-- Settles O26: the three indexed commands share one check. -/
theorem indexOutOfRangeFaults : Obligations.IndexOutOfRangeFaults := by
  intro i v s hc hi
  have hcheck := checkIndex_of_shiftWidth_le hc hi
  exact ⟨exec_of_checkOf_eq_some hcheck, exec_of_checkOf_eq_some hcheck, exec_of_checkOf_eq_some hcheck⟩

/-! ### Fault entry on the status register (R21, R121) -/

theorem status_getLsbD_busy (s : State) : (status s).getLsbD 1 = busy s := by
  simp only [status, BitVec.getLsbD_append]
  simp

theorem status_getLsbD_fault (s : State) : (status s).getLsbD 2 = faultBit s := by
  simp only [status, BitVec.getLsbD_append]
  simp

/-- `CAUSE` is bits 7 to 4 of `STATUS` (R21). -/
theorem status_extractLsb'_cause (s : State) : (status s).extractLsb' 4 4 = causeCode s.cause := by
  apply BitVec.eq_of_getLsbD_eq
  intro i hi
  simp only [status, BitVec.getLsbD_extractLsb', BitVec.getLsbD_append]
  simp [hi]

/-- Settles O27: fault entry is its record, and `STATUS` shows `SEQ` and `CAUSE`. -/
theorem faultEntryWritesTheRecord : Obligations.FaultEntryWritesTheRecord := by
  intro c count s
  refine ⟨rfl, rfl, rfl, rfl, rfl, rfl, rfl, status_getLsbD_fault _, status_getLsbD_busy _, ?_⟩
  exact (status_extractLsb'_cause _).trans (by cases c <;> rfl)

/-! ### A step that does nothing (R123, R131) -/

theorem sameEngine_tick (s : State) : sameEngine s (tick s) := rfl

theorem sameEngine.trans {s t u : State} (hst : sameEngine s t) (htu : sameEngine t u) : sameEngine s u := by
  rw [sameEngine] at hst htu ⊢
  rw [htu, hst]

theorem sameEngine.trace {s t : State} (h : sameEngine s t) : t.trace = s.trace := by
  rw [h]

theorem sameEngine.seq {s t : State} (h : sameEngine s t) : t.seq = s.seq := by
  rw [h]

/-- A command on the port stays there while no step accepts it (R144). -/
theorem hostAfterStep_of_presented {s : State} {c : Command} (h : presented s = some c) :
    hostAfterStep s.host = s.host := by
  unfold presented at h
  split at h
  next c' later hhost => rw [hhost]; rfl
  next => cases h

theorem step_eq_next_tick {s : State} (hr : rstNow s = false)
    (h : s.seq = .faulted ∨ s.seq = .idle ∧ presented s = none) : step s = .next (tick s) := by
  rcases step_cases s with ⟨hreset, -⟩ | ⟨-, op, rest, hrun, -⟩ | ⟨-, -, hstep⟩ | ⟨-, hidle, c, hc, -⟩
  · simp [hr] at hreset
  · simp [hrun] at h
  · exact hstep
  · simp [hidle, hc] at h

theorem step_of_rstNow {s : State} (hr : rstNow s = true) : step s = .next (resetAction (tick s)) :=
  if_pos hr

/-- Without a reset, a faulted engine holds everything, however many steps it takes, and a command on its port waits
(R123). -/
theorem run_of_faulted {n : Nat} {s : State} (hs : s.seq = .faulted) (hn : NoReset n s) :
    ∃ t, run n s = .next t ∧ sameEngine s t ∧ t.ioFail = s.ioFail ∧
      (∀ c rest, s.host = .present c :: rest → t.host = s.host) := by
  induction n generalizing s with
  | zero => exact ⟨s, rfl, rfl, rfl, fun _ _ _ => rfl⟩
  | succ n ih =>
    obtain ⟨t, hrun, hsame, hio, hhost⟩ := ih (s := tick s) hs (hn.later rfl)
    refine ⟨t, (run_succ (step_eq_next_tick hn.now (.inl hs))).trans hrun, (sameEngine_tick s).trans hsame, hio,
      fun c rest hc => ?_⟩
    have htick : (tick s).host = s.host := by rw [tick_host, hc]; rfl
    rw [hhost c rest (htick.trans hc), htick]

/-- Settles O8: the step is `tick`. -/
theorem idleAndFaultedDoNothing : Obligations.IdleAndFaultedDoNothing := fun s hr h =>
  ⟨tick s, step_eq_next_tick hr h, sameEngine_tick s, rfl, rfl, rfl, fun _ => hostAfterStep_of_presented⟩

/-- Settles O9: by induction on the steps without reset; the reset action makes `SEQ` idle. -/
theorem faultedUntilReset : Obligations.FaultedUntilReset :=
  ⟨fun _ _ => run_of_faulted, fun _ _ hr => ⟨_, step_of_rstNow hr, rfl⟩⟩

/-! ### A failed platform call (R118, R27) -/

/-- A failed call leaves its pin at level `X`, its mode as before, and every other pin as before (R27). -/
theorem pinRead_applyEvent_failed {pins : List (Nat × PinState)} (h : pinsWf pins = true) (call : PinCall) (q : Nat) :
    pinRead (applyEvent pins ⟨call, false⟩) q =
      if q = (callPin call).toNat then { pinRead pins q with level := .x } else pinRead pins q :=
  pinRead_applyEvent h ⟨call, false⟩ q

/-- Settles O14: the failed step enters the fault, and a faulted engine adds no event. -/
theorem failedCallEndsTheCommand : Obligations.FailedCallEndsTheCommand := by
  intro s op rest hs hr hfail hpins
  have hread := pinRead_applyEvent_failed hpins (callOf s op)
  refine ⟨_, step_run_fail hs hr hfail, rfl, rfl, rfl, rfl, rfl, ?_, fun p => ?_, fun p hp => ?_, rfl, rfl, rfl, rfl,
    rfl, rfl, rfl, rfl, fun n hn => ?_⟩
  · exact congrArg PinState.level ((hread _).trans (if_pos rfl))
  · refine (congrArg PinState.mode (hread p.toNat)).trans ?_
    split <;> rfl
  · exact congrArg PinState.level ((hread _).trans (if_neg fun h => hp (BitVec.eq_of_toNat_eq h)))
  · obtain ⟨u, hrun, hsame, -⟩ := run_of_faulted rfl hn
    exact ⟨u, hrun, hsame.trace, hsame.seq⟩

/-! ### The acceptance step by `Check` (R112, R119) -/

theorem startSeq_seq_ne_faulted (ops : List MicroOp) (s : State) : (startSeq ops s).seq ≠ .faulted := by
  cases ops <;> simp

/-- A command's body raises no fault (R62). -/
theorem bodyOf_seq_ne_faulted (i : Instr) (s : State) : (bodyOf i s).seq ≠ .faulted := by
  cases i with
  | init | writeBits | latchLow | latchHigh => exact startSeq_seq_ne_faulted _ _
  | testBit | testAll | writeBit | invertBit => exact nofun

@[simp] theorem bodyOf_cause (i : Instr) (s : State) : (bodyOf i s).cause = s.cause := by
  cases i <;> rfl

@[simp] theorem bodyOf_faultCmd (i : Instr) (s : State) : (bodyOf i s).faultCmd = s.faultCmd := by
  cases i <;> rfl

@[simp] theorem bodyOf_faultCount (i : Instr) (s : State) : (bodyOf i s).faultCount = s.faultCount := by
  cases i <;> rfl

@[simp] theorem bodyOf_cur (i : Instr) (s : State) : (bodyOf i s).cur = s.cur := by
  cases i <;> rfl

@[simp] theorem bodyOf_cnt (i : Instr) (s : State) : (bodyOf i s).cnt = s.cnt := by
  cases i <;> rfl

/-- A check reads the configuration only, which using up the inputs of the step does not change. -/
theorem checkOf_takeCommand_tick (i : Instr) (s : State) : checkOf i (takeCommand (tick s)) = checkOf i s := by
  cases i <;> rfl

/-! R119's `Check` is the decoder's refusal, and then the decoded command's own check. -/

theorem specCheck_of_decode_ok {c : Command} {i : Instr} (h : decode c = .ok i) (s : State) :
    specCheck c s = checkOf i s := by
  rw [specCheck_eq, h]

theorem specCheck_of_decode_error {c : Command} {e : DecodeError} (h : decode c = .error e) (s : State) :
    specCheck c s = some .reservedEncoding := by
  rw [specCheck_eq, h]

theorem checkOf_ne_some_none (i : Instr) (s : State) : checkOf i s ≠ some .none := by
  rcases exec_cases i s with ⟨k, hk, hcheck, -⟩ | ⟨hcheck, -⟩
  · simpa [hcheck] using hk
  · simp [hcheck]

/-- `Check` never names NONE as a cause. -/
theorem specCheck_ne_some_none (c : Command) (s : State) : specCheck c s ≠ some .none := by
  cases hd : decode c with
  | ok i => rw [specCheck_of_decode_ok hd]; exact checkOf_ne_some_none i s
  | error e => simp [specCheck_of_decode_error hd]

/-- A fault of the acceptance step, on the state with this step's inputs used up and the command taken (R61, R121). -/
theorem faultedBy_takeCommand_tick {c : Command} {s : State} (hp : Presents c s) (k : Cause) :
    faultedBy k c.cmd (takeCommand (tick s)) =
      faultedBy k c.cmd { s with rst := s.rst.tail, host := s.host.tail, ioCall := none } := by
  obtain ⟨-, -, hc⟩ := hp
  simp only [takeCommand, tick, hostAfterStep_of_presented hc, faultedBy]

/-- The cause `Check` names is the one the acceptance step reports, with no other effect (R119, R122). -/
theorem step_of_specCheck_eq_some {c : Command} {s : State} {k : Cause} (hp : Presents c s)
    (h : specCheck c s = some k) :
    step s = .next (faultedBy k c.cmd { s with rst := s.rst.tail, host := s.host.tail, ioCall := none }) := by
  rw [step_presents hp, ← faultedBy_takeCommand_tick hp]
  rcases acceptStep_cases c (tick s) with ⟨i, hd, haccept⟩ | ⟨e, hd, haccept⟩
  · rw [specCheck_of_decode_ok hd, ← checkOf_takeCommand_tick] at h
    rw [haccept, exec_of_checkOf_eq_some h, encodeWord_of_decode hd]
  · cases (specCheck_of_decode_error hd s).symm.trans h
    exact haccept

/-- Where `Check` names no cause, the word is legal and the command's body runs (R62, R119). -/
theorem step_of_specCheck_eq_none {c : Command} {s : State} (hp : Presents c s) (h : specCheck c s = none) :
    ∃ i, decode c = .ok i ∧ step s = .next (bodyOf i (acceptWord c.cmd (takeCommand (tick s)))) := by
  rcases acceptStep_cases c (tick s) with ⟨i, hd, haccept⟩ | ⟨e, hd, -⟩
  · rw [specCheck_of_decode_ok hd, ← checkOf_takeCommand_tick] at h
    exact ⟨i, hd, by rw [step_presents hp, haccept, exec_of_checkOf_eq_none h, encodeWord_of_decode hd]⟩
  · simp [specCheck_of_decode_error hd] at h

/-- `Check` begins with the legality of the word, as R59 says it (R119). -/
theorem specCheck_of_illegal {c : Command} {s : State}
    (h : (CmdWord.op c.cmd).toNat = 0 ∨ 9 ≤ (CmdWord.op c.cmd).toNat ∨ CmdWord.rsv c.cmd ≠ 0 ∨
      (CmdWord.idx c.cmd ≠ 0 ∧ (CmdWord.op c.cmd).toNat ≠ 2 ∧ (CmdWord.op c.cmd).toNat ≠ 4 ∧
        (CmdWord.op c.cmd).toNat ≠ 5)) : specCheck c s = some .reservedEncoding := by
  rw [specCheck_fields]
  by_cases hfields : (CmdWord.op c.cmd).toNat = 0 ∨ 9 ≤ (CmdWord.op c.cmd).toNat ∨ CmdWord.rsv c.cmd ≠ 0
  · exact if_pos hfields
  · rw [if_neg hfields]
    exact if_pos (by tauto)

/-- Settles O6: an illegal word is the first cause of `Check`. -/
theorem illegalWordRaisesReservedEncoding : Obligations.IllegalWordRaisesReservedEncoding := fun _ _ hp h =>
  step_of_specCheck_eq_some hp (specCheck_of_illegal h)

/-- Settles O7: the two outcomes of `Check`. -/
theorem acceptanceReportsFirstFailingCheck : Obligations.AcceptanceReportsFirstFailingCheck := by
  intro s c hp
  cases h : specCheck c s with
  | some k => exact ⟨fun hk => specCheck_ne_some_none c s (hk ▸ h), step_of_specCheck_eq_some hp h⟩
  | none =>
    obtain ⟨i, hd, hstep⟩ := step_of_specCheck_eq_none hp h
    refine ⟨i, _, hd, encodeWord_of_decode hd, hstep, bodyOf_seq_ne_faulted i _, ?_⟩
    simp

end Sys2Proof.Machine

/-! ## Reset and power-on (70_reset_and_hazards.md)

A reset step is `resetAction` after `tick`. Its effect on the registers is the `@[simp]` laws of `resetAction`; what is
left is the status register, the waiting command and the second reset step. -/

namespace Sys2Proof.Machine

/-- `STATUS = 0x00` is `SEQ = IDLE` with no cause and no configuration (R21, R132). -/
theorem status_eq_zero {s : State} (hseq : s.seq = .idle) (hcause : s.cause = .none) (hconf : s.configured = false) :
    status s = 0x00#8 := by
  rw [status, faultBit, busy, hseq, hcause, hconf]
  rfl

/-- The platform and the host's port are not the engine's registers (R133). -/
@[simp] theorem presented_resetAction (s : State) : presented (resetAction s) = presented s := rfl

/-- A command waits at the port through a step that does not accept it (R144). -/
theorem presented_tick_of_presented {s : State} {c : Command} (h : presented s = some c) :
    presented (tick s) = some c := by
  rw [presented, tick_host, hostAfterStep_of_presented h]
  exact h

/-- The inputs a step uses up make no difference to what a reset leaves in the engine (R132). -/
theorem sameEngine_resetAction_tick (s : State) : sameEngine (resetAction s) (resetAction (tick s)) := rfl

/-- The reset action writes the same values whatever the registers held (R150). -/
@[simp] theorem resetAction_resetAction (s : State) : resetAction (resetAction s) = resetAction s := rfl

/-- A reset step of a reset engine changes nothing in it (R150). -/
theorem sameEngine_resetAction_again (s : State) : sameEngine (resetAction s) (resetAction (tick (resetAction s))) := by
  simpa using sameEngine_resetAction_tick (resetAction s)

/-- With no event, the chain is as at power-on (R91, R135). -/
theorem chainStates_nil (wi : Wiring) : chainStates wi [] = [ChainState.powerOn wi.stages] := rfl

/-- Settles O1: the step is `resetAction` after `tick`, and neither takes the waiting command. -/
theorem resetStepLeavesResetValues : Obligations.ResetStepLeavesResetValues := by
  intro s hr
  refine ⟨_, step_of_rstNow hr, ?_⟩
  have hstatus : status (resetAction (tick s)) = 0x00#8 := status_eq_zero rfl rfl rfl
  have hwaits : ∀ c, presented s = some c → presented (resetAction (tick s)) = some c := fun _ =>
    presented_tick_of_presented
  simpa [hstatus] using hwaits

/-- Settles O2: no pin has an entry in the table at power-on, and the trace has no event. -/
theorem powerOnIsResetWithUnknownPins : Obligations.PowerOnIsResetWithUnknownPins := by
  refine ⟨fun w => ?_, Config.resetWidth, rfl⟩
  have hstatus : status (State.powerOn w) = 0x00#8 := status_eq_zero rfl rfl rfl
  exact ⟨rfl, rfl, rfl, hstatus, rfl, rfl, rfl, rfl, rfl, rfl, rfl, rfl, rfl, rfl, rfl, fun _ => ⟨rfl, rfl⟩, rfl,
    chainStates_nil⟩

/-- Settles O3: both steps do the reset action, and doing it twice is doing it once. -/
theorem holdingResetChangesNothingMore : Obligations.HoldingResetChangesNothingMore := fun s hr =>
  ⟨resetAction (tick s), step_of_rstNow hr, sameEngine_resetAction_tick s, rfl, rfl, fun hr' =>
    ⟨_, step_of_rstNow hr', sameEngine_resetAction_again (tick s), rfl, rfl⟩⟩

end Sys2Proof.Machine

/-! ## Encoding (30_encoding.md)

A word is its three fields (R54), and the decoder looks at `RSV`, at `OP`, and at `IDX` where the command takes none. -/

namespace Sys2Proof

/-! ### Decoding what was encoded -/

@[simp] theorem decode_cmdWord (idx : Byte) (op : BitVec 4) (d : Data) (g : CfgWord) :
    decode ⟨cmdWord idx op, d, g⟩ = decodeOpcode ⟨cmdWord idx op, d, g⟩ := by
  simp [decode]

/-- The value operand of a well-formed command is carried whole by the `SW` wires of the bus (R32, R64). -/
theorem fitTo_of_fits {w : StateWidth} {v : Data} (h : Data.fits w v = true) : Data.fitTo w.bits v = v :=
  Data.fitTo_of_lt ((Data.fits_iff w v).1 h)

/-- Settles O15: the fields of the word and of `CFG` are read back, and `DATA` fits its wires. -/
theorem decodeOfEncodeIsTheCommand : Obligations.DecodeOfEncodeIsTheCommand := by
  intro w i hi
  cases i with
  | init ds shcp stcp l v =>
    simp [encode, encodeWord, encodeData, encodeCfg, Machine.onBus, fitTo_of_fits hi, decodeOpcode, withoutIndex]
  | writeBit _ v | writeBits v =>
    simp [encode, encodeWord, encodeData, Machine.onBus, fitTo_of_fits hi, decodeOpcode, withoutIndex]
  | testBit _ | testAll | invertBit _ | latchLow | latchHigh =>
    simp [encode, encodeWord, Machine.onBus, decodeOpcode, withoutIndex]

/-- The operand buses a decoded command uses are those of its transaction (R58). -/
theorem encode_buses_of_decode {c : Command} {i : Instr} (h : decode c = .ok i) :
    (encodeData i = none ∨ encodeData i = some c.data) ∧ (encodeCfg i = none ∨ encodeCfg i = some c.cfg) := by
  obtain ⟨-, hbody⟩ := decode_eq_ok.1 h
  unfold decodeOpcode at hbody
  split at hbody
  case h_1 =>
    obtain ⟨-, rfl⟩ := withoutIndex_eq_ok.1 hbody
    exact ⟨.inr rfl, .inr (congrArg some (cfgWord_fields c.cfg))⟩
  case h_3 | h_7 | h_8 =>
    obtain ⟨-, rfl⟩ := withoutIndex_eq_ok.1 hbody
    exact ⟨.inl rfl, .inl rfl⟩
  case h_6 =>
    obtain ⟨-, rfl⟩ := withoutIndex_eq_ok.1 hbody
    exact ⟨.inr rfl, .inl rfl⟩
  case h_2 | h_5 =>
    cases hbody
    exact ⟨.inl rfl, .inl rfl⟩
  case h_4 =>
    cases hbody
    exact ⟨.inr rfl, .inl rfl⟩
  case h_9 => cases hbody

/-- Settles O16: the word by `encodeWord_of_decode`, the buses by `encode_buses_of_decode`. -/
theorem encodeOfDecodeIsTheWord : Obligations.EncodeOfDecodeIsTheWord := fun _ _ h =>
  ⟨encodeWord_of_decode h, encode_buses_of_decode h⟩

/-! ### The opcode map (R57, R58) -/

/-- `OP = 0` and `OP` from 9 on are reserved (R59). -/
theorem decodeOpcode_reserved {c : Command} (h : CmdWord.op c.cmd = 0 ∨ 9 ≤ (CmdWord.op c.cmd).toNat) :
    decodeOpcode c = .error .reservedOpcode := by
  unfold decodeOpcode
  split
  case h_9 => rfl
  all_goals
    rename_i hop
    rcases h with h | h
    · simp [h] at hop
    · omega

/-- Settles O18: each word is a `cmdWord`, whose fields the decoder reads. -/
theorem opcodeMapAndOperandFields : Obligations.OpcodeMapAndOperandFields := by
  intro i d g
  have hword (op : BitVec 4) : decode ⟨i ++ (0x0#4 ++ op), d, g⟩ = decodeOpcode ⟨cmdWord i op, d, g⟩ :=
    decode_cmdWord i op d g
  have hplain (op : BitVec 4) : decode ⟨cmdWord 0 op, d, g⟩ = decodeOpcode ⟨cmdWord 0 op, d, g⟩ :=
    decode_cmdWord 0 op d g
  refine ⟨(hplain 1).trans ?_, (hword 2).trans ?_, (hplain 3).trans ?_, (hword 4).trans ?_, (hword 5).trans ?_,
    (hplain 6).trans ?_, (hplain 7).trans ?_, (hplain 8).trans ?_, fun op hop => ?_⟩
  case refine_9 =>
    rw [hword]
    exact decodeOpcode_reserved (by simpa using hop)
  case refine_1 => simp [decodeOpcode, withoutIndex, CfgWord.ds, CfgWord.shcp, CfgWord.stcp, CfgWord.l]
  all_goals simp [decodeOpcode, withoutIndex]

/-- Settles O19: the decoder, run on the fourteen words. -/
theorem specWordsDecode : Obligations.SpecWordsDecode := by
  refine ⟨?_, ?_, ?_, ?_, ?_, ?_, ?_, ?_, ?_, ?_, ?_, ?_, ?_, ?_⟩ <;> rfl

/-! ### The legal words and their number (R59) -/

/-- Which words the decoder accepts, over the named fields. -/
theorem legalWord_iff (w : CmdWord) : legalWord w = true ↔ CmdWord.rsv w = 0 ∧
    ((CmdWord.op w).toNat = 2 ∨ (CmdWord.op w).toNat = 4 ∨ (CmdWord.op w).toNat = 5 ∨
      (CmdWord.idx w = 0 ∧ 1 ≤ (CmdWord.op w).toNat ∧ (CmdWord.op w).toNat ≤ 8)) := by
  unfold legalWord decode decodeOpcode withoutIndex
  generalize CmdWord.rsv w = rsv
  generalize CmdWord.idx w = idx
  have hlt := (CmdWord.op w).isLt
  generalize (CmdWord.op w).toNat = op at hlt ⊢
  by_cases hrsv : rsv = 0
  · by_cases hidx : idx = 0
    · rw [if_pos hrsv, if_pos hidx]
      interval_cases op <;> simp [hrsv, hidx]
    · rw [if_pos hrsv, if_neg hidx]
      interval_cases op <;> simp_all
  · have hrsv' : ¬ rsv = 0#4 := hrsv
    simp [hrsv']

/-- The 256 values of the field `IDX`. -/
def allBytes : List Byte := (List.finRange (2 ^ 8)).map BitVec.ofFin

theorem length_allBytes : allBytes.length = 256 := by
  rw [allBytes, List.length_map, List.length_finRange]

theorem mem_allBytes (b : Byte) : b ∈ allBytes :=
  List.mem_map.2 ⟨b.toFin, List.mem_finRange _, rfl⟩

theorem nodup_allBytes : allBytes.Nodup :=
  (List.nodup_finRange (2 ^ 8)).map fun _ _ h => congrArg BitVec.toFin h

/-- The index and the operation code of every legal word: any index with `OP` 2, 4 or 5, none with the others. -/
def legalFields : List (Byte × BitVec 4) :=
  allBytes ×ˢ [2, 4, 5] ++ [(0, 1), (0, 3), (0, 6), (0, 7), (0, 8)]

theorem length_legalFields : legalFields.length = 773 := by
  rw [legalFields, List.length_append, List.length_product, length_allBytes]; rfl

theorem mem_legalFields {f : Byte × BitVec 4} : f ∈ legalFields ↔
    (f.2 = 2 ∨ f.2 = 4 ∨ f.2 = 5) ∨ (f.1 = 0 ∧ (f.2 = 1 ∨ f.2 = 3 ∨ f.2 = 6 ∨ f.2 = 7 ∨ f.2 = 8)) := by
  obtain ⟨idx, op⟩ := f
  simp only [legalFields, List.mem_append, List.mem_product, mem_allBytes, true_and, List.mem_cons, List.not_mem_nil,
    or_false, Prod.mk.injEq]
  tauto

theorem nodup_legalFields : legalFields.Nodup := by
  rw [legalFields]
  refine (nodup_allBytes.product (by decide)).append (by decide) fun f hf hf' => ?_
  have hop : f.2 ∈ [2, 4, 5] := (List.mem_product.1 hf).2
  revert hop
  fin_cases hf' <;> decide

/-- The command word of a pair of fields (R54). -/
def wordOfFields (f : Byte × BitVec 4) : CmdWord := cmdWord f.1 f.2

theorem wordOfFields_injective : Function.Injective wordOfFields := fun f g h => by
  have hidx : CmdWord.idx (cmdWord f.1 f.2) = CmdWord.idx (cmdWord g.1 g.2) := congrArg CmdWord.idx h
  have hop : CmdWord.op (cmdWord f.1 f.2) = CmdWord.op (cmdWord g.1 g.2) := congrArg CmdWord.op h
  exact Prod.ext (by simpa using hidx) (by simpa using hop)

/-- The fields of a legal word, with `OP` as the pair has it. -/
theorem legalWord_iff_mem_legalFields (w : CmdWord) :
    legalWord w = true ↔ CmdWord.rsv w = 0 ∧ (CmdWord.idx w, CmdWord.op w) ∈ legalFields := by
  rw [legalWord_iff, mem_legalFields]
  simp only [← BitVec.toNat_inj]
  grind

theorem mem_map_wordOfFields (w : CmdWord) : w ∈ legalFields.map wordOfFields ↔ legalWord w = true := by
  rw [List.mem_map, legalWord_iff_mem_legalFields]
  constructor
  · rintro ⟨f, hf, rfl⟩
    simpa [wordOfFields] using hf
  · rintro ⟨hrsv, hf⟩
    exact ⟨_, hf, cmdWord_fields w hrsv⟩

/-- Settles O17: the legal words are the words of the 773 pairs of fields. -/
theorem legalWordsAndTheirNumber : Obligations.LegalWordsAndTheirNumber :=
  ⟨legalWord_iff, legalFields.map wordOfFields, nodup_legalFields.map wordOfFields_injective,
    (List.length_map _).trans length_legalFields, mem_map_wordOfFields⟩

/-! ### The assembler (R64, R65) -/

/-- Joining two bit vectors is adding the upper one, shifted. -/
theorem toNat_append_eq_add {m n : Nat} (x : BitVec m) (y : BitVec n) :
    (x ++ y).toNat = x.toNat * 2 ^ n + y.toNat := by
  rw [BitVec.toNat_append, ← Nat.shiftLeft_add_eq_or_of_lt y.isLt, Nat.shiftLeft_eq]

theorem toNat_cmdWord (idx : Byte) (op : BitVec 4) : (cmdWord idx op).toNat = idx.toNat * 2 ^ 8 + op.toNat := by
  rw [cmdWord, toNat_append_eq_add, toNat_append_eq_add, BitVec.toNat_zero, Nat.zero_mul, Nat.zero_add]

theorem toNat_cfgWord (ds shcp stcp l : Byte) : (cfgWord ds shcp stcp l).toNat =
    l.toNat * 2 ^ 24 + stcp.toNat * 2 ^ 16 + shcp.toNat * 2 ^ 8 + ds.toNat := by
  simp only [cfgWord, toNat_append_eq_add]
  omega

theorem asmByte_of_le {n : Nat} (h : n ≤ 255) : asmByte n = some (BitVec.ofNat 8 n) := if_pos h

theorem asmByte_of_not_le {n : Nat} (h : ¬ n ≤ 255) : asmByte n = none := if_neg h

theorem asmData_of_lt {w : StateWidth} {n : Nat} (h : n < 2 ^ w.bits) : asmData w n = some (BitVec.ofNat 256 n) :=
  if_pos h

theorem asmData_of_not_lt {w : StateWidth} {n : Nat} (h : ¬ n < 2 ^ w.bits) : asmData w n = none := if_neg h

theorem toNat_asmByte {n : Nat} (h : n ≤ 255) : (BitVec.ofNat 8 n).toNat = n :=
  Nat.mod_eq_of_lt (by omega)

theorem toNat_word_asmByte {n : Nat} (h : n ≤ 255) (op : BitVec 4) :
    (cmdWord (BitVec.ofNat 8 n) op).toNat = n * 2 ^ 8 + op.toNat := by
  rw [toNat_cmdWord, toNat_asmByte h]

theorem toNat_asmData {w : StateWidth} {n : Nat} (h : n < 2 ^ w.bits) : (BitVec.ofNat 256 n).toNat = n :=
  Nat.mod_eq_of_lt (h.trans_le (Nat.pow_le_pow_right (by decide) w.bits_le.2))

/-- What the assembler makes of a value fits the engine's bus. -/
theorem fits_of_asmData {w : StateWidth} {n : Nat} {v : Data} (h : asmData w n = some v) : Data.fits w v = true := by
  by_cases hn : n < 2 ^ w.bits
  · cases (asmData_of_lt hn).symm.trans h
    rwa [Data.fits_iff, toNat_asmData hn]
  · simp [asmData_of_not_lt hn] at h

theorem asmWriteBit_wellFormed {w : StateWidth} {i v : Nat} {is : List Instr} (h : asmWriteBit w i v = some is) :
    ∀ j ∈ is, j.wellFormed w = true := by
  unfold asmWriteBit at h
  split at h
  next b d _ hd =>
    cases h
    exact List.forall_mem_singleton.2 (fits_of_asmData hd)
  next => cases h

theorem assemble_wellFormed {w : StateWidth} {line : AsmLine} {is : List Instr} (h : assemble w line = some is) :
    ∀ i ∈ is, i.wellFormed w = true := by
  cases line with
  | init ds shcp stcp l v =>
    simp only [assemble] at h
    split at h
    next hd =>
      cases h
      exact List.forall_mem_singleton.2 (fits_of_asmData hd)
    next => cases h
  | testBit i | invertBit i =>
    obtain ⟨b, -, rfl⟩ := Option.map_eq_some_iff.1 h
    simp [Instr.wellFormed]
  | writeBits v =>
    obtain ⟨d, hd, rfl⟩ := Option.map_eq_some_iff.1 h
    exact List.forall_mem_singleton.2 (fits_of_asmData hd)
  | writeBit i v => exact asmWriteBit_wellFormed h
  | setBit i | clearBit i => exact asmWriteBit_wellFormed h
  | testAll | latchLow | latchHigh | push =>
    cases h
    simp [Instr.wellFormed]

/-- Settles O20: each pseudo-instruction is assembled as its expansion is. -/
theorem pseudoInstructionExpansions : Obligations.PseudoInstructionExpansions := fun _ _ => ⟨rfl, rfl, rfl⟩

/-- Settles O21: a row within its bounds assembles to the command of its numbers, which the word and the buses hold. -/
theorem assemblerWordsAndRefusals : Obligations.AssemblerWordsAndRefusals := by
  intro w
  refine ⟨fun ds shcp stcp l v => ?_, fun i v => ?_, fun i => ?_, fun v => ?_, ⟨_, rfl, rfl⟩, ⟨_, rfl, rfl⟩,
    ⟨_, rfl, rfl⟩, fun line is => assemble_wellFormed⟩
  · split
    next h =>
      obtain ⟨hds, hshcp, hstcp, hl, hv⟩ := h
      refine ⟨.init (.ofNat 8 ds) (.ofNat 8 shcp) (.ofNat 8 stcp) (.ofNat 8 l) (.ofNat 256 v), ?_, rfl,
        toNat_asmData hv, (toNat_cfgWord _ _ _ _).trans ?_⟩
      · rw [assemble, asmByte_of_le hds, asmByte_of_le hshcp, asmByte_of_le hstcp, asmByte_of_le hl, asmData_of_lt hv]
      · rw [toNat_asmByte hds, toNat_asmByte hshcp, toNat_asmByte hstcp, toNat_asmByte hl]
    next h =>
      simp only [assemble, asmByte, asmData]
      grind
  · split
    next h =>
      obtain ⟨hi, hv⟩ := h
      refine ⟨.writeBit (.ofNat 8 i) (.ofNat 256 v), ?_, toNat_word_asmByte hi 4, toNat_asmData hv⟩
      rw [assemble, asmWriteBit, asmByte_of_le hi, asmData_of_lt hv]
    next h =>
      simp only [assemble, asmWriteBit, asmByte, asmData]
      grind
  · split
    next hi =>
      have htest : assemble w (.testBit i) = some [.testBit (.ofNat 8 i)] := by rw [assemble, asmByte_of_le hi]; rfl
      have hinvert : assemble w (.invertBit i) = some [.invertBit (.ofNat 8 i)] := by
        rw [assemble, asmByte_of_le hi]; rfl
      exact ⟨⟨_, htest, toNat_word_asmByte hi 2⟩, ⟨_, hinvert, toNat_word_asmByte hi 5⟩⟩
    next hi => simp [assemble, asmByte_of_not_le hi]
  · split
    next hv =>
      have hbits : assemble w (.writeBits v) = some [.writeBits (.ofNat 256 v)] := by
        rw [assemble, asmData_of_lt hv]; rfl
      exact ⟨_, hbits, rfl, toNat_asmData hv⟩
    next hv => simp [assemble, asmData_of_not_lt hv]

end Sys2Proof

/-! ## The platform's pins (10_state.md section 4)

A call changes its own pin as `pinAfter` says and no other. -/

namespace Sys2Proof.Machine

/-! ### What a call leaves on the pins (R27) -/

/-- `pinRead_applyEvent` with the pins as identifiers. -/
theorem pinRead_applyEvent_pin {pins : List (Nat × PinState)} (h : pinsWf pins = true) (e : Event) (q : Byte) :
    pinRead (applyEvent pins e) q.toNat =
      if q = callPin e.call then pinAfter e (pinRead pins q.toNat) else pinRead pins q.toNat := by
  rw [pinRead_applyEvent h]
  simp only [BitVec.toNat_inj]

/-- Settles O48: `pinAfter`, by the call and its answer. -/
theorem callEffectOnThePins : Obligations.CallEffectOnThePins := by
  intro call ok s h
  refine ⟨fun q hq => ?_, fun hok => ?_, fun hok => ?_⟩
  · simp [pinMode, pinLevel, pinRead_applyEvent_pin h, hq]
  · simp [pinMode, pinLevel, pinRead_applyEvent_pin h, hok, pinAfter]
  · subst hok
    cases call with
    | config p => simp [pinMode, pinLevel, pinRead_applyEvent_pin h, callPin, pinAfter]
    | write p lvl => simp [pinMode, pinLevel, pinRead_applyEvent_pin h, callPin, pinAfter, levelOf]

/-- No call takes the mode OUTPUT away (R27). -/
theorem pinAfter_mode_of_output {e : Event} {old : PinState} (h : old.mode = .output) :
    (pinAfter e old).mode = .output := by
  unfold pinAfter
  split
  · split
    · rfl
    · exact h
  · exact h

theorem pinMode_issueCall_of_output {s : State} {q : Byte} (h : pinsWf s.pins = true) (hq : pinMode s q = .output)
    (call : PinCall) (ok : Bool) : pinMode (issueCall call ok s) q = .output := by
  rw [pinMode, issueCall_pins, pinRead_applyEvent_pin h]
  split
  · exact pinAfter_mode_of_output hq
  · exact hq

theorem pinMode_issueCall_config {s : State} (h : pinsWf s.pins = true) (p : Byte) :
    pinMode (issueCall (.config p) true s) p = .output := by
  rw [pinMode, issueCall_pins, pinRead_applyEvent_pin h]
  exact congrArg PinState.mode (if_pos rfl)

theorem pinsConfigured_issueCall {s : State} (h : pinsWf s.pins = true) (hp : PinsConfigured s) (call : PinCall)
    (ok : Bool) : PinsConfigured (issueCall call ok s) := by
  obtain ⟨hds, hshcp, hstcp⟩ := hp
  exact ⟨pinMode_issueCall_of_output h hds call ok, pinMode_issueCall_of_output h hshcp call ok,
    pinMode_issueCall_of_output h hstcp call ok⟩

end Sys2Proof.Machine

/-! ## The engine invariant (10_state.md, 60_exceptions.md)

Each operation over the state keeps `EngineInv` under the condition it is used in; a step is a chain of them. -/

namespace Sys2Proof.Machine

variable {s : State} {op : MicroOp} {rest : List MicroOp}

/-! ### The chain configuration and the lists -/

/-- A legal configuration shifts at least 8 bits and at most `SW` (R115). -/
theorem ConfigLegal.shiftWidth_bounds (h : ConfigLegal s) : 8 ≤ shiftWidth s ∧ shiftWidth s ≤ s.width.bits := by
  obtain ⟨_, _, _, l, -, -, -, hl, hl1, hlw, -⟩ := h
  rw [shiftWidth_of_some hl]
  omega

@[simp] theorem length_highOps (n : Nat) : (highOps n).length = 4 * n + 1 := by
  simp [highOps]

@[simp] theorem length_pushOps (n : Nat) : (pushOps n).length = 4 * n + 4 := by
  simp only [pushOps, List.length_append, length_lowOps, length_highOps]
  omega

@[simp] theorem length_initOps (n : Nat) : (initOps n).length = 4 * n + 7 := by
  simp only [initOps, List.length_append, length_pushOps, List.length_cons, List.length_nil]
  omega

theorem length_opsOfWord_le (w : CmdWord) (n : Nat) : (opsOfWord w n).length ≤ 4 * n + 7 := by
  unfold opsOfWord
  split_ifs <;> simp

/-- INIT's list begins with the three `PinConfig` calls (R67). -/
theorem initOps_drop_cases {n k : Nat} (h : (initOps n).drop k = op :: rest) :
    (k = 0 ∧ op = .confDs) ∨ (k = 1 ∧ op = .confShcp) ∨ (k = 2 ∧ op = .confStcp) ∨ 3 ≤ k := by
  match k with
  | 0 | 1 | 2 =>
    simp only [initOps, List.cons_append, List.drop_succ_cons, List.drop_zero, List.cons.injEq] at h
    simp [h.1]
  | k + 3 => omega

/-! ### The sequencer's position (R26) -/

theorem seqCoherent_of_not_run (h : ∀ op rest, s.seq ≠ .run op rest) : SeqCoherent s := by
  unfold SeqCoherent
  split
  next op rest hs => exact absurd hs (h op rest)
  next => trivial
  next => trivial

/-- What is left of the list of `CUR` after `CNT` micro-operations. -/
theorem seqCoherent_run_iff (hs : s.seq = .run op rest) : SeqCoherent s ↔
    s.configured = true ∧ (opsOfWord s.cur (shiftWidth s)).drop s.cnt.toNat = op :: rest := by
  unfold SeqCoherent
  rw [hs]
  refine and_congr_right fun _ => ⟨fun h => ?_, fun h => ?_⟩
  · exact List.append_cancel_left ((List.take_append_drop _ _).trans h)
  · rw [← h, List.take_append_drop]

/-- The first `n` of INIT's three `PinConfig` calls have made their pins outputs (R67). -/
def ConfiguredUpTo (n : Nat) (s : State) : Prop :=
  (1 ≤ n → pinMode s (readDs s) = .output) ∧ (2 ≤ n → pinMode s (readShcp s) = .output) ∧
    (3 ≤ n → pinMode s (readStcp s) = .output)

theorem ConfiguredUpTo.pinsConfigured {n : Nat} (h : ConfiguredUpTo n s) (hn : 3 ≤ n) : PinsConfigured s := by
  obtain ⟨hds, hshcp, hstcp⟩ := h
  exact ⟨hds (by omega), hshcp (by omega), hstcp hn⟩

theorem PinsConfigured.configuredUpTo (h : PinsConfigured s) (n : Nat) : ConfiguredUpTo n s := by
  obtain ⟨hds, hshcp, hstcp⟩ := h
  exact ⟨fun _ => hds, fun _ => hshcp, fun _ => hstcp⟩

/-- One more micro-operation of INIT's list, answered `ok`. -/
theorem ConfiguredUpTo.issueCall {n k : Nat} (hw : pinsWf s.pins = true) (h : ConfiguredUpTo k s)
    (hk : (initOps n).drop k = op :: rest) : ConfiguredUpTo (k + 1) (issueCall (callOf s op) true s) := by
  rcases initOps_drop_cases hk with ⟨rfl, rfl⟩ | ⟨rfl, rfl⟩ | ⟨rfl, rfl⟩ | hk3
  · exact ⟨fun _ => pinMode_issueCall_config hw _, by omega, by omega⟩
  · obtain ⟨hds, -, -⟩ := h
    exact ⟨fun _ => pinMode_issueCall_of_output hw (hds le_rfl) _ _, fun _ => pinMode_issueCall_config hw _, by omega⟩
  · obtain ⟨hds, hshcp, -⟩ := h
    exact ⟨fun _ => pinMode_issueCall_of_output hw (hds (by omega)) _ _,
      fun _ => pinMode_issueCall_of_output hw (hshcp le_rfl) _ _, fun _ => pinMode_issueCall_config hw _⟩
  · exact (pinsConfigured_issueCall hw (h.pinsConfigured hk3) _ _).configuredUpTo _

theorem pinsReady_idle_iff (hs : s.seq = .idle) : PinsReady s ↔ (s.configured = true → PinsConfigured s) := by
  unfold PinsReady
  rw [hs]

theorem pinsReady_run_iff (hs : s.seq = .run op rest) :
    PinsReady s ↔ if s.cur = 1 then ConfiguredUpTo s.cnt.toNat s else PinsConfigured s := by
  unfold PinsReady
  rw [hs]
  rfl

theorem pinsReady_faulted (hs : s.seq = .faulted) : PinsReady s := by
  unfold PinsReady
  rw [hs]
  trivial

/-! ### The operations that keep the invariant -/

theorem engineInv_tick (h : EngineInv s) : EngineInv (tick s) :=
  ⟨h.mirrorFits, h.resultFits, h.configLegal, h.unconfigured, h.causeFault, h.seqCoherent, h.pinsReady,
    h.pinsCanonical, h.pinsTrace⟩

theorem engineInv_takeCommand (h : EngineInv s) : EngineInv (takeCommand s) :=
  ⟨h.mirrorFits, h.resultFits, h.configLegal, h.unconfigured, h.causeFault, h.seqCoherent, h.pinsReady,
    h.pinsCanonical, h.pinsTrace⟩

theorem engineInv_resetAction (h : EngineInv s) : EngineInv (resetAction s) :=
  ⟨trivial, trivial, nofun, fun _ => ⟨rfl, rfl, rfl, rfl, rfl, rfl⟩, ⟨nofun, fun _ => rfl⟩, trivial, nofun,
    h.pinsCanonical, h.pinsTrace⟩

theorem engineInv_raiseFault (h : EngineInv s) {k : Cause} (hk : k ≠ .none) (n : BitVec 16) :
    EngineInv (raiseFault k n s) :=
  ⟨h.mirrorFits, h.resultFits, h.configLegal, h.unconfigured, ⟨fun h => absurd h hk, fun h => absurd rfl h⟩, trivial,
    trivial, h.pinsCanonical, h.pinsTrace⟩

theorem EngineInv.cause_of_idle (h : EngineInv s) (hs : s.seq = .idle) : s.cause = .none :=
  h.causeFault.2 (by simp [hs])

theorem EngineInv.pinsConfigured (h : EngineInv s) (hs : s.seq = .idle) (hc : s.configured = true) :
    PinsConfigured s :=
  (pinsReady_idle_iff hs).1 h.pinsReady hc

theorem engineInv_acceptWord (h : EngineInv s) (hs : s.seq = .idle) (w : CmdWord) : EngineInv (acceptWord w s) :=
  ⟨h.mirrorFits, h.resultFits, h.configLegal, h.unconfigured, h.causeFault, seqCoherent_of_not_run (by simp [hs]),
    (pinsReady_idle_iff (s := acceptWord w s) hs).2 (h.pinsConfigured hs), h.pinsCanonical, h.pinsTrace⟩

theorem engineInv_complete (h : EngineInv s) (hs : s.seq = .idle) : EngineInv (complete s) :=
  ⟨h.mirrorFits, h.resultFits, h.configLegal, h.unconfigured, ⟨nofun, fun _ => h.cause_of_idle hs⟩, trivial,
    h.pinsConfigured hs, h.pinsCanonical, h.pinsTrace⟩

theorem engineInv_setResult (h : EngineInv s) (hc : s.configured = true) {v : Data} (hv : v.toNat < 2 ^ s.width.bits) :
    EngineInv (setResult v s) :=
  ⟨h.mirrorFits, hv, h.configLegal, fun hc' => absurd (hc.symm.trans hc') nofun, h.causeFault, h.seqCoherent,
    h.pinsReady, h.pinsCanonical, h.pinsTrace⟩

theorem engineInv_setMirror (h : EngineInv s) (hc : s.configured = true) {v : Data} (hv : v.toNat < 2 ^ s.width.bits) :
    EngineInv (setMirror v s) :=
  ⟨hv, h.resultFits, fun hc => ⟨(h.configLegal hc).1, nofun⟩, fun hc' => absurd (hc.symm.trans hc') nofun, h.causeFault,
    h.seqCoherent, h.pinsReady, h.pinsCanonical, h.pinsTrace⟩

/-- A later command starts its list on configured pins (R78). -/
theorem engineInv_startSeq (h : EngineInv s) (hs : s.seq = .idle) (hc : s.configured = true) (hcur : s.cur ≠ 1)
    (hcnt : s.cnt = 0) (hops : opsOfWord s.cur (shiftWidth s) = op :: rest) : EngineInv (startSeq (op :: rest) s) where
  mirrorFits := h.mirrorFits
  resultFits := h.resultFits
  configLegal := h.configLegal
  unconfigured := h.unconfigured
  causeFault := ⟨fun _ => nofun, fun _ => h.cause_of_idle hs⟩
  seqCoherent := (seqCoherent_run_iff rfl).2 ⟨hc, by simp [hcnt, hops]⟩
  pinsReady := (pinsReady_run_iff rfl).2 ((if_neg hcur).symm ▸ h.pinsConfigured hs hc)
  pinsCanonical := h.pinsCanonical
  pinsTrace := h.pinsTrace

/-- INIT stores a legal configuration and starts its list (R66). -/
theorem engineInv_initBody {ds shcp stcp l : Byte} {v : Data} (h : EngineInv s) (hs : s.seq = .idle) (hcur : s.cur = 1)
    (hcnt : s.cnt = 0) (hcheck : checkInit ds shcp stcp l s = none) : EngineInv (initBody ds shcp stcp l v s) where
  mirrorFits := Data.toNat_fitTo_lt _ _
  resultFits := h.resultFits
  configLegal _ := by
    obtain ⟨-, ⟨hl0, hl⟩, hpins⟩ := checkInit_eq_none.1 hcheck
    have hl1 : 1 ≤ l.toNat := Nat.one_le_iff_ne_zero.2 fun h0 => hl0 (BitVec.eq_of_toNat_eq h0)
    exact ⟨⟨ds, shcp, stcp, l, rfl, rfl, rfl, rfl, hl1, hl, hpins⟩, nofun⟩
  unconfigured := nofun
  causeFault := ⟨fun _ => nofun, fun _ => h.cause_of_idle hs⟩
  seqCoherent := by
    refine (seqCoherent_run_iff rfl).2 ⟨rfl, ?_⟩
    have hcur' : (initBody ds shcp stcp l v s).cur = 1 := hcur
    have hcnt' : (initBody ds shcp stcp l v s).cnt = 0 := hcnt
    rw [hcur', hcnt']
    rfl
  pinsReady := by
    refine (pinsReady_run_iff rfl).2 ((if_pos hcur).symm ▸ ?_)
    have hcnt' : (initBody ds shcp stcp l v s).cnt = 0 := hcnt
    rw [hcnt']
    exact ⟨nofun, nofun, nofun⟩
  pinsCanonical := h.pinsCanonical
  pinsTrace := h.pinsTrace

/-- A call keeps the invariant but for the sequencer's step to the next micro-operation (R27, R30). -/
theorem engineInv_issueCall (h : EngineInv s) (call : PinCall) (ok : Bool) : EngineInv (issueCall call ok s) where
  mirrorFits := h.mirrorFits
  resultFits := h.resultFits
  configLegal := h.configLegal
  unconfigured := h.unconfigured
  causeFault := h.causeFault
  seqCoherent := h.seqCoherent
  pinsReady := by
    have hkeep : ∀ {q}, pinMode s q = .output → pinMode (issueCall call ok s) q = .output := fun hq =>
      pinMode_issueCall_of_output h.pinsCanonical hq call ok
    cases hs : s.seq with
    | idle =>
      exact (pinsReady_idle_iff (s := issueCall call ok s) hs).2 fun hc =>
        pinsConfigured_issueCall h.pinsCanonical (h.pinsConfigured hs hc) _ _
    | faulted => exact pinsReady_faulted hs
    | run op rest =>
      have hready := (pinsReady_run_iff hs).1 h.pinsReady
      refine (pinsReady_run_iff (s := issueCall call ok s) hs).2 ?_
      rw [issueCall_cur, issueCall_cnt]
      split_ifs at hready ⊢
      · obtain ⟨hds, hshcp, hstcp⟩ := hready
        exact ⟨fun hn => hkeep (hds hn), fun hn => hkeep (hshcp hn), fun hn => hkeep (hstcp hn)⟩
      · exact pinsConfigured_issueCall h.pinsCanonical hready _ _
  pinsCanonical := applyEvent_wf h.pinsCanonical _
  pinsTrace := by rw [issueCall_pins, issueCall_trace, pinsOfTrace_snoc, h.pinsTrace]

/-- The list of `CUR` is far shorter than `CNT` counts, so a micro-operation left means no wrap (R81). -/
theorem toNat_cnt_succ (h : EngineInv s) (hs : s.seq = .run op rest) : (s.cnt + 1).toNat = s.cnt.toNat + 1 := by
  obtain ⟨hc, hdrop⟩ := (seqCoherent_run_iff hs).1 h.seqCoherent
  have hlen := congrArg List.length hdrop
  have hle := length_opsOfWord_le s.cur (shiftWidth s)
  have hw := (h.configLegal hc).1.shiftWidth_bounds
  have hbits := s.width.bits_le
  rw [List.length_drop, List.length_cons] at hlen
  exact BitVec.toNat_add_of_lt (by simp; omega)

/-- After an `ok` call the sequencer stands one micro-operation further in the same list (R81). -/
theorem engineInv_advance (h : EngineInv s) (hs : s.seq = .run op rest) :
    EngineInv (advance rest (issueCall (callOf s op) true s)) := by
  have hnext := engineInv_issueCall h (callOf s op) true
  obtain ⟨hc, hdrop⟩ := (seqCoherent_run_iff hs).1 h.seqCoherent
  have hcnt := toNat_cnt_succ h hs
  have hcause : s.cause = .none := h.causeFault.2 (by simp [hs])
  have hready : if s.cur = 1 then ConfiguredUpTo (s.cnt.toNat + 1) (issueCall (callOf s op) true s)
      else PinsConfigured (issueCall (callOf s op) true s) := by
    have hbefore := (pinsReady_run_iff hs).1 h.pinsReady
    split_ifs at hbefore ⊢ with hcur
    · rw [hcur] at hdrop
      exact hbefore.issueCall h.pinsCanonical hdrop
    · exact pinsConfigured_issueCall h.pinsCanonical hbefore _ _
  have hdrop' : (opsOfWord s.cur (shiftWidth s)).drop (s.cnt.toNat + 1) = rest := by
    rw [← List.drop_drop, hdrop, List.drop_one, List.tail_cons]
  refine ⟨h.mirrorFits, h.resultFits, h.configLegal, h.unconfigured, ?_, ?_, ?_, hnext.pinsCanonical, hnext.pinsTrace⟩
  · cases rest <;> exact ⟨fun _ => nofun, fun _ => hcause⟩
  · cases rest with
    | nil => trivial
    | cons op' rest' => exact (seqCoherent_run_iff rfl).2 ⟨hc, by rw [advance_cnt, issueCall_cnt, hcnt]; exact hdrop'⟩
  · cases rest with
    | nil =>
      refine (pinsReady_idle_iff rfl).2 fun _ => ?_
      split_ifs at hready with hcur
      · have hlen := congrArg List.length hdrop
        have hinit : (opsOfWord 1 (shiftWidth s)).length = 4 * shiftWidth s + 7 := length_initOps _
        rw [hcur, List.length_drop, hinit, List.length_singleton] at hlen
        exact hready.pinsConfigured (by omega)
      · exact hready
    | cons op' rest' =>
      refine (pinsReady_run_iff rfl).2 ?_
      rw [advance_cnt, issueCall_cnt, hcnt]
      exact hready

theorem engineInv_seqStep (h : EngineInv s) (hs : s.seq = .run op rest) : EngineInv (seqStep op rest s) := by
  rcases seqStep_cases op rest s with ⟨-, hstep⟩ | ⟨-, hstep⟩ <;> rw [hstep]
  · exact engineInv_raiseFault (k := .platformIoFailure) (engineInv_issueCall h _ _) nofun _
  · exact engineInv_advance h hs

theorem EngineInv.readMirror_lt (h : EngineInv s) (hc : s.configured = true) :
    (readMirror s).toNat < 2 ^ s.width.bits := by
  have hfits := h.mirrorFits
  obtain ⟨v, hv⟩ := Option.ne_none_iff_exists'.1 (h.configLegal hc).2
  rw [hv] at hfits
  rw [readMirror_eq hv]
  exact hfits

/-- One bit of `R` written below `W` (R74, R75). -/
theorem engineInv_setMirror_setBit (h : EngineInv s) {i : Byte} (hcheck : checkIndex i s = none) (b : Bool) :
    EngineInv (setMirror ((readMirror s).setBit (indexOperand i) b) s) := by
  obtain ⟨hc, hi⟩ := checkIndex_eq_none.1 hcheck
  have hw := (h.configLegal hc).1.shiftWidth_bounds
  exact engineInv_setMirror h hc (Data.setBit_lt (h.readMirror_lt hc) (hi.trans_le hw.2) s.width.bits_le.2 b)

/-- The body of a command whose check passed keeps the invariant (R62). -/
theorem engineInv_bodyOf {i : Instr} (h : EngineInv s) (hs : s.seq = .idle) (hcur : s.cur = encodeWord i)
    (hcnt : s.cnt = 0) (hcheck : checkOf i s = none) : EngineInv (bodyOf i s) := by
  cases i with
  | init ds shcp stcp l v => exact engineInv_initBody h hs hcur hcnt hcheck
  | testBit i =>
    have hbits := s.width.bits_le
    exact engineInv_complete
      (engineInv_setResult h (checkIndex_eq_none.1 hcheck).1 (Data.ofBit_lt (by omega) _)) hs
  | testAll =>
    have hc := checkConfigured_eq_none.1 hcheck
    exact engineInv_complete (engineInv_setResult h hc (h.readMirror_lt hc)) hs
  | writeBit i v => exact engineInv_complete (engineInv_setMirror_setBit h hcheck _) hs
  | invertBit i => exact engineInv_complete (engineInv_setMirror_setBit h hcheck _) hs
  | writeBits v =>
    have hc := checkConfigured_eq_none.1 hcheck
    have hcur' : s.cur = 6 := hcur
    have hset := engineInv_setMirror h hc (v := dataOperand s v) (Data.toNat_fitTo_lt _ _)
    exact engineInv_startSeq hset hs hc (by simp [hcur']) hcnt (by rw [setMirror_cur, hcur']; rfl)
  | latchLow =>
    have hcur' : s.cur = 7 := hcur
    exact engineInv_startSeq h hs (checkConfigured_eq_none.1 hcheck) (by simp [hcur']) hcnt (by rw [hcur']; rfl)
  | latchHigh =>
    have hcur' : s.cur = 8 := hcur
    have hops : opsOfWord s.cur (shiftWidth s) = highOps (shiftWidth s) := by rw [hcur']; rfl
    obtain ⟨op, rest, hcons, -⟩ := seqOf_of_ne_nil (highOps_ne_nil (shiftWidth s))
    have hstart := engineInv_startSeq h hs (checkConfigured_eq_none.1 hcheck) (by simp [hcur']) hcnt (hops.trans hcons)
    rwa [← hcons] at hstart

theorem engineInv_acceptStep {c : Command} {t : State} (h : EngineInv s) (hs : s.seq = .idle)
    (ht : acceptStep c s = .next t) : EngineInv t := by
  have htake := engineInv_takeCommand h
  rcases acceptStep_cases c s with ⟨i, -, haccept⟩ | ⟨e, -, haccept⟩
  · have hword := engineInv_acceptWord htake hs (encodeWord i)
    rcases exec_cases i (takeCommand s) with ⟨k, hk, -, hexec⟩ | ⟨hcheck, hexec⟩
    · cases (haccept.trans hexec).symm.trans ht
      exact engineInv_raiseFault hword hk _
    · cases (haccept.trans hexec).symm.trans ht
      exact engineInv_bodyOf hword hs rfl rfl (by cases i <;> exact hcheck)
  · cases haccept.symm.trans ht
    exact engineInv_raiseFault (k := .reservedEncoding) (engineInv_acceptWord htake hs c.cmd) nofun _

/-! ### The obligations -/

/-- Settles O51: each outcome of `step_cases` is a chain of operations that keep the invariant. -/
theorem everyStepKeepsTheInvariant : Obligations.EveryStepKeepsTheInvariant := by
  intro s t h ht
  have htick := engineInv_tick h
  rcases step_cases s with ⟨-, hstep⟩ | ⟨-, op, rest, hs, hstep⟩ | ⟨-, -, hstep⟩ | ⟨-, hs, c, -, hstep⟩
  · cases hstep.symm.trans ht
    exact engineInv_resetAction htick
  · cases hstep.symm.trans ht
    exact engineInv_seqStep htick hs
  · cases hstep.symm.trans ht
    exact htick
  · exact engineInv_acceptStep htick hs (hstep.symm.trans ht)

theorem engineInv_powerOn (w : StateWidth) : EngineInv (State.powerOn w) :=
  ⟨trivial, trivial, nofun, fun _ => ⟨rfl, rfl, rfl, rfl, rfl, rfl⟩, ⟨nofun, fun _ => rfl⟩, trivial, nofun, rfl, rfl⟩

/-- Settles O52: nothing is configured, the table and the trace are empty. -/
theorem invariantHoldsAtPowerOn : Obligations.InvariantHoldsAtPowerOn :=
  ⟨engineInv_powerOn, engineInv_powerOn _⟩

/-- A call that writes a pin writes one of the chain's three, and is none of INIT's first three calls (R79). -/
theorem callOf_eq_write {p : Byte} {lvl : Bool} (h : callOf s op = .write p lvl) :
    (p = readDs s ∨ p = readShcp s ∨ p = readStcp s) ∧ op ≠ .confDs ∧ op ≠ .confShcp ∧ op ≠ .confStcp := by
  cases op <;> cases h <;> simp

theorem PinsConfigured.mode_of_callOf {p : Byte} {lvl : Bool} (h : PinsConfigured s)
    (hcall : callOf s op = .write p lvl) : pinMode s p = .output := by
  obtain ⟨hds, hshcp, hstcp⟩ := h
  rcases (callOf_eq_write hcall).1 with rfl | rfl | rfl
  · exact hds
  · exact hshcp
  · exact hstcp

/-- A running sequence writes configured pins (R28). -/
theorem EngineInv.mode_of_run {p : Byte} {lvl : Bool} (h : EngineInv s) (hs : s.seq = .run op rest)
    (hcall : callOf s op = .write p lvl) : pinMode s p = .output := by
  have hready := (pinsReady_run_iff hs).1 h.pinsReady
  split_ifs at hready with hcur
  · obtain ⟨-, hdrop⟩ := (seqCoherent_run_iff hs).1 h.seqCoherent
    rw [hcur] at hdrop
    obtain ⟨-, hds, hshcp, hstcp⟩ := callOf_eq_write hcall
    rcases initOps_drop_cases hdrop with ⟨-, hop⟩ | ⟨-, hop⟩ | ⟨-, hop⟩ | hk
    · exact absurd hop hds
    · exact absurd hop hshcp
    · exact absurd hop hstcp
    · exact (hready.pinsConfigured hk).mode_of_callOf hcall
  · exact hready.mode_of_callOf hcall

end Sys2Proof.Machine

/-! ## The outputs and the status register (10_state.md sections 2 and 5) -/

namespace Sys2Proof.Machine

/-! ### `STATUS` and the fields of `SEQ` (R21) -/

theorem status_getLsbD_configured (s : State) : (status s).getLsbD 0 = s.configured := by
  simp only [status, BitVec.getLsbD_append]
  simp

theorem status_getLsbD_reserved (s : State) : (status s).getLsbD 3 = false := by
  simp only [status, BitVec.getLsbD_append]
  simp

theorem busy_iff (s : State) : busy s = true ↔ ∃ op rest, s.seq = .run op rest := by
  unfold busy
  cases s.seq <;> simp

theorem faultBit_iff (s : State) : faultBit s = true ↔ s.seq = .faulted := by
  unfold faultBit
  cases s.seq <;> simp

theorem cmdReady_iff (s : State) : cmdReady s = true ↔ s.seq = .idle := by
  unfold cmdReady
  cases s.seq <;> simp

theorem EngineInv.cause_of_faultBit_eq_false {s : State} (h : EngineInv s) (hf : faultBit s = false) :
    s.cause = .none :=
  h.causeFault.2 fun hs => by simp [(faultBit_iff s).2 hs] at hf

/-- Settles O55: each bit of `STATUS` and each port is its register. -/
theorem statusWordLayout : Obligations.StatusWordLayout := by
  intro s
  refine ⟨rfl, status_getLsbD_configured s, ?_, ?_, status_getLsbD_reserved s, status_extractLsb'_cause s,
    cmdReady_iff s, (status_getLsbD_fault s).symm, fun h hf => ?_, rfl, rfl, rfl, rfl, fun h => ?_, fun p h => ?_,
    fun p lvl h => ?_⟩
  · rw [status_getLsbD_busy, busy_iff]
  · rw [status_getLsbD_fault, faultBit_iff]
  · rw [status_extractLsb'_cause, h.cause_of_faultBit_eq_false (by rw [← status_getLsbD_fault, hf])]
    rfl
  case refine_4 | refine_5 | refine_6 =>
    rw [ports, h]
    rfl

end Sys2Proof.Machine

/-! ## The engine step (30_encoding.md section 4, 70_reset_and_hazards.md)

What an acceptance step leaves unchanged, what each outcome of `step_cases` issues, and that the pins play no part. -/

namespace Sys2Proof.Machine

variable {s t : State}

/-! ### The registers a body may write (R18, R20, R25, R62) -/

section Body
variable (i : Instr) (s : State)

@[simp] theorem bodyOf_width : (bodyOf i s).width = s.width := by cases i <;> rfl
@[simp] theorem bodyOf_pins : (bodyOf i s).pins = s.pins := by cases i <;> rfl
@[simp] theorem bodyOf_trace : (bodyOf i s).trace = s.trace := by cases i <;> rfl
@[simp] theorem bodyOf_host : (bodyOf i s).host = s.host := by cases i <;> rfl
@[simp] theorem bodyOf_rst : (bodyOf i s).rst = s.rst := by cases i <;> rfl
@[simp] theorem bodyOf_ioFail : (bodyOf i s).ioFail = s.ioFail := by cases i <;> rfl

variable {i}

/-- INIT alone writes the configuration (R20). -/
theorem bodyOf_config (hi : ∀ ds shcp stcp l v, i ≠ .init ds shcp stcp l v) :
    (bodyOf i s).cfgDs = s.cfgDs ∧ (bodyOf i s).cfgShcp = s.cfgShcp ∧ (bodyOf i s).cfgStcp = s.cfgStcp ∧
      (bodyOf i s).cfgL = s.cfgL ∧ (bodyOf i s).configured = s.configured := by
  cases i with
  | init ds shcp stcp l v => exact absurd rfl (hi ds shcp stcp l v)
  | _ => exact ⟨rfl, rfl, rfl, rfl, rfl⟩

/-- TEST_BIT and TEST_ALL alone write `RESULT` (R25). -/
theorem bodyOf_result (h1 : ∀ x, i ≠ .testBit x) (h2 : i ≠ .testAll) : (bodyOf i s).result = s.result := by
  cases i with
  | testBit x => exact absurd rfl (h1 x)
  | testAll => exact absurd rfl h2
  | _ => rfl

/-- INIT, WRITE_BIT, INVERT_BIT and WRITE_BITS alone write `R` (R18). -/
theorem bodyOf_mirror (h1 : ∀ ds shcp stcp l v, i ≠ .init ds shcp stcp l v) (h2 : ∀ x v, i ≠ .writeBit x v)
    (h3 : ∀ x, i ≠ .invertBit x) (h4 : ∀ v, i ≠ .writeBits v) : (bodyOf i s).mirror = s.mirror := by
  cases i with
  | init ds shcp stcp l v => exact absurd rfl (h1 ds shcp stcp l v)
  | writeBit x v => exact absurd rfl (h2 x v)
  | invertBit x => exact absurd rfl (h3 x)
  | writeBits v => exact absurd rfl (h4 v)
  | _ => rfl

end Body

/-- Settles O28: a body does not fault, and a failed check leaves `faultedBy` of its cause. -/
theorem checkFaultIsPrecise : Obligations.CheckFaultIsPrecise := by
  intro i s t ht hfault
  rcases exec_cases i s with ⟨k, -, -, hexec⟩ | ⟨-, hexec⟩
  · cases hexec.symm.trans ht
    rfl
  · cases hexec.symm.trans ht
    exact absurd hfault (bodyOf_seq_ne_faulted i _)

/-- Settles O37: fault entry writes the fault record only, and a body what `bodyOf_config`, `bodyOf_result` and
`bodyOf_mirror` say. -/
theorem acceptanceFrame : Obligations.AcceptanceFrame := by
  intro i s t ht
  rcases exec_cases i s with ⟨k, -, -, hexec⟩ | ⟨-, hexec⟩
  · cases hexec.symm.trans ht
    exact ⟨rfl, rfl, rfl, rfl, rfl, rfl, rfl, rfl, rfl, fun _ => ⟨rfl, rfl⟩, fun _ => ⟨rfl, rfl, rfl, rfl, rfl⟩,
      fun _ _ => rfl, fun _ _ _ _ => rfl, fun h => absurd rfl h⟩
  · cases hexec.symm.trans ht
    exact ⟨by simp, by simp, by simp, by simp, by simp, by simp, by simp, by simp, by simp,
      fun p => by simp [pinMode, pinLevel], bodyOf_config _, bodyOf_result _, bodyOf_mirror _, fun _ => by simp⟩

/-! ### Acceptance (R61, R62, R144) -/

/-- Settles O5: the command on the port waits through `tick` and is then taken. -/
theorem stepRunsDecodedInstruction : Obligations.StepRunsDecodedInstruction := by
  intro s c i hp hd
  obtain ⟨-, -, hc⟩ := id hp
  have hinputs : takeCommand (tick s) =
      { s with rst := s.rst.tail, host := s.host.tail, respValid := false, ioCall := none } := by
    simp only [takeCommand, tick, hostAfterStep_of_presented hc]
  rw [step_presents hp, acceptStep, hd, hinputs]

/-- Every command answers a next state. -/
theorem exec_answers (i : Instr) (s : State) : ∃ t, exec i s = .next t :=
  ⟨_, exec_eq i s⟩

/-- Settles O12: each outcome of `step_cases` is a next state. -/
theorem everyStepAnswersNext : Obligations.EveryStepAnswersNext := by
  refine ⟨fun s => ?_, exec_answers⟩
  rcases step_cases s with ⟨-, hstep⟩ | ⟨-, op, rest, -, hstep⟩ | ⟨-, -, hstep⟩ | ⟨-, -, c, -, hstep⟩
  · exact ⟨_, hstep⟩
  · exact ⟨_, hstep⟩
  · exact ⟨_, hstep⟩
  · rcases acceptStep_cases c (tick s) with ⟨i, -, haccept⟩ | ⟨e, -, haccept⟩
    · obtain ⟨t, ht⟩ := exec_answers i (takeCommand (tick s))
      exact ⟨t, hstep.trans (haccept.trans ht)⟩
    · exact ⟨_, hstep.trans haccept⟩

/-- What an acceptance leaves of the platform and of the host's moves, legal word or not. -/
theorem acceptStep_frame {c : Command} (h : acceptStep c s = .next t) :
    t.trace = s.trace ∧ t.pins = s.pins ∧ t.host = s.host.tail := by
  rcases acceptStep_cases c s with ⟨i, -, haccept⟩ | ⟨e, -, haccept⟩
  · obtain ⟨-, hpins, htrace, -, hhost, -⟩ := acceptanceFrame i _ t (haccept.symm.trans h)
    exact ⟨htrace, hpins, hhost⟩
  · cases haccept.symm.trans h
    exact ⟨rfl, rfl, rfl⟩

theorem presented_of_host {c : Command} {later : List HostMove} (h : s.host = .present c :: later) :
    presented s = some (onBus s.width c) := by
  rw [presented, h]

@[simp] theorem seqStep_host (op : MicroOp) (rest : List MicroOp) (s : State) : (seqStep op rest s).host = s.host := by
  rcases seqStep_cases op rest s with ⟨-, h⟩ | ⟨-, h⟩ <;> rw [h] <;> rfl

/-- Settles O10: the accepting outcome of `step_cases` takes the head of the moves, every other keeps it. -/
theorem commandWaitsUntilAccepted : Obligations.CommandWaitsUntilAccepted := by
  intro s t c later hhost ht
  have hwaits : (tick s).host = s.host := by rw [tick_host, hhost]; rfl
  rcases step_cases s with ⟨hr, hstep⟩ | ⟨-, op, rest, hs, hstep⟩ | ⟨-, hquiet, hstep⟩ | ⟨hr, hs, c', -, hstep⟩
  · cases hstep.symm.trans ht
    simpa [hr] using hwaits
  · cases hstep.symm.trans ht
    simpa [hs] using hwaits
  · cases hstep.symm.trans ht
    have hs : s.seq ≠ .idle := by
      rintro hs
      simp [hs, presented_of_host hhost] at hquiet
    simpa [hs] using hwaits
  · obtain ⟨-, -, htaken⟩ := acceptStep_frame (hstep.symm.trans ht)
    rw [if_pos ⟨hs, hr⟩, htaken, hwaits, hhost]
    rfl

/-! ### Platform calls (R47, R81) -/

/-- A sequencer step issues the call of its head, whatever the answer (R81). -/
theorem seqStep_call (op : MicroOp) (rest : List MicroOp) (s : State) : ∃ ok,
    (seqStep op rest s).ioCall = some (callOf s op) ∧ (seqStep op rest s).trace = s.trace ++ [⟨callOf s op, ok⟩] := by
  rcases seqStep_cases op rest s with ⟨-, h⟩ | ⟨-, h⟩ <;> rw [h]
  · exact ⟨false, rfl, rfl⟩
  · exact ⟨true, rfl, rfl⟩

/-- A micro-operation's call does not depend on the inputs of the step. -/
theorem callOf_tick (s : State) (op : MicroOp) : callOf (tick s) op = callOf s op :=
  callOf_congr rfl rfl rfl rfl rfl op

/-- Settles O11: the running outcome of `step_cases` issues one call, every other none. -/
theorem atMostOneCallPerStep : Obligations.AtMostOneCallPerStep := by
  intro s t ht
  rcases step_cases s with ⟨-, hstep⟩ | ⟨hr, op, rest, hs, hstep⟩ | ⟨-, -, hstep⟩ | ⟨-, -, c, -, hstep⟩
  · cases hstep.symm.trans ht
    exact .inl ⟨rfl, rfl, rfl⟩
  · cases hstep.symm.trans ht
    obtain ⟨ok, hio, htrace⟩ := seqStep_call op rest (tick s)
    rw [callOf_tick] at hio htrace
    exact .inr ⟨op, rest, ok, hs, hr, hio, htrace, seqStep_host op rest (tick s)⟩
  · cases hstep.symm.trans ht
    exact .inl ⟨rfl, rfl, rfl⟩
  · have haccept := hstep.symm.trans ht
    obtain ⟨htrace, hpins, -⟩ := acceptStep_frame haccept
    exact .inl ⟨acceptStep_ioCall haccept, htrace, hpins⟩

/-- Settles O49: only a running sequence issues the call, and its pin is configured. -/
theorem noWriteToUnconfiguredPin : Obligations.NoWriteToUnconfiguredPin := by
  intro s t p lvl hinv ht hio
  rcases atMostOneCallPerStep s t ht with ⟨hnone, -⟩ | ⟨op, rest, ok, hs, -, hcall, -⟩
  · simp [hnone] at hio
  · exact hinv.mode_of_run hs (Option.some.inj (hcall.symm.trans hio))

/-! ### Writes of the configuration, of `R` and of `RESULT` (R18, R20, R25) -/

/-- What a sequencer step writes is the trace, the pins, its own position and the fault record (R81). -/
theorem seqStep_registers (op : MicroOp) (rest : List MicroOp) (s : State) :
    (seqStep op rest s).mirror = s.mirror ∧ (seqStep op rest s).result = s.result ∧
      (seqStep op rest s).configured = s.configured ∧ (seqStep op rest s).cfgDs = s.cfgDs ∧
      (seqStep op rest s).cfgShcp = s.cfgShcp ∧ (seqStep op rest s).cfgStcp = s.cfgStcp ∧
      (seqStep op rest s).cfgL = s.cfgL := by
  rcases seqStep_cases op rest s with ⟨-, h⟩ | ⟨-, h⟩ <;> rw [h] <;> exact ⟨rfl, rfl, rfl, rfl, rfl, rfl, rfl⟩

/-- A second INIT is stopped by its check, and no other command writes the configuration (R20, R114). -/
theorem exec_config_of_configured {i : Instr} (hc : s.configured = true) (h : exec i s = .next t) :
    t.configured = true ∧ t.cfgDs = s.cfgDs ∧ t.cfgShcp = s.cfgShcp ∧ t.cfgStcp = s.cfgStcp ∧ t.cfgL = s.cfgL := by
  by_cases hi : ∀ ds shcp stcp l v, i ≠ .init ds shcp stcp l v
  · obtain ⟨-, -, -, -, -, -, -, -, -, -, hconfig, -⟩ := acceptanceFrame i s t h
    obtain ⟨hds, hshcp, hstcp, hl, hconf⟩ := hconfig hi
    exact ⟨hconf.trans hc, hds, hshcp, hstcp, hl⟩
  · push Not at hi
    obtain ⟨ds, shcp, stcp, l, v, rfl⟩ := hi
    cases (secondInitFaults ds shcp stcp l v s hc).symm.trans h
    exact ⟨hc, rfl, rfl, rfl, rfl⟩

theorem acceptStep_config_of_configured {c : Command} (hc : s.configured = true) (h : acceptStep c s = .next t) :
    t.configured = true ∧ t.cfgDs = s.cfgDs ∧ t.cfgShcp = s.cfgShcp ∧ t.cfgStcp = s.cfgStcp ∧ t.cfgL = s.cfgL := by
  rcases acceptStep_cases c s with ⟨i, -, haccept⟩ | ⟨e, -, haccept⟩
  · exact exec_config_of_configured (s := takeCommand s) hc (haccept.symm.trans h)
  · cases haccept.symm.trans h
    exact ⟨hc, rfl, rfl, rfl, rfl⟩

/-- Settles O53: no sequencer step writes the configuration, and no acceptance does while it stands. -/
theorem configurationIsImmutable : Obligations.ConfigurationIsImmutable := by
  intro s t hc hr ht
  rcases step_cases s with ⟨hr', -⟩ | ⟨-, op, rest, -, hstep⟩ | ⟨-, -, hstep⟩ | ⟨-, -, c, -, hstep⟩
  · simp [hr] at hr'
  · cases hstep.symm.trans ht
    obtain ⟨-, -, hconf, hds, hshcp, hstcp, hl⟩ := seqStep_registers op rest (tick s)
    exact ⟨hconf.trans hc, hds, hshcp, hstcp, hl⟩
  · cases hstep.symm.trans ht
    exact ⟨hc, rfl, rfl, rfl, rfl⟩
  · exact acceptStep_config_of_configured (s := tick s) hc (hstep.symm.trans ht)

/-- A step that is no reset writes `R` or `RESULT` only by accepting a legal command (R18, R25). -/
theorem registers_of_step (hr : rstNow s = false) (ht : step s = .next t) :
    (t.mirror = s.mirror ∧ t.result = s.result) ∨
      ∃ c i, Presents c s ∧ decode c = .ok i ∧ exec i (takeCommand (tick s)) = .next t := by
  rcases step_cases s with ⟨hr', -⟩ | ⟨-, op, rest, -, hstep⟩ | ⟨-, -, hstep⟩ | ⟨-, hs, c, hc, hstep⟩
  · simp [hr] at hr'
  · cases hstep.symm.trans ht
    obtain ⟨hmirror, hresult, -⟩ := seqStep_registers op rest (tick s)
    exact .inl ⟨hmirror, hresult⟩
  · cases hstep.symm.trans ht
    exact .inl ⟨rfl, rfl⟩
  · rcases acceptStep_cases c (tick s) with ⟨i, hd, haccept⟩ | ⟨e, -, haccept⟩
    · exact .inr ⟨c, i, ⟨hs, hr, hc⟩, hd, (hstep.trans haccept).symm.trans ht⟩
    · cases (hstep.trans haccept).symm.trans ht
      exact .inl ⟨rfl, rfl⟩

/-- Settles O54: the frame of the accepted command names the writers. -/
theorem writersOfMirrorAndResult : Obligations.WritersOfMirrorAndResult := by
  intro s t hr ht
  rcases registers_of_step hr ht with ⟨hmirror, hresult⟩ | ⟨c, i, hp, hd, hexec⟩
  · exact ⟨fun h => absurd hmirror h, fun h => absurd hresult h⟩
  · obtain ⟨-, -, -, -, -, -, -, -, -, -, -, hresult, hmirror, -⟩ := acceptanceFrame i _ t hexec
    refine ⟨fun hne => ⟨c, i, hp, hd, ?_⟩, fun hne => ⟨c, i, hp, hd, ?_⟩⟩
    · by_contra hno
      push Not at hno
      obtain ⟨h1, h2, h3, h4⟩ := hno
      exact hne (hmirror h1 h2 h3 h4)
    · by_contra hno
      push Not at hno
      obtain ⟨h1, h2⟩ := hno
      exact hne (hresult h1 h2)

/-! ### The pins are for observation (R27, R34) -/

/-- `s` with another pin table. -/
def withPins (pins : List (Nat × PinState)) (s : State) : State := { s with pins := pins }

theorem bodyOf_withPins (i : Instr) (pins : List (Nat × PinState)) (s : State) :
    bodyOf i (withPins pins s) = withPins pins (bodyOf i s) := by
  cases i <;> rfl

theorem exec_withPins {i : Instr} (h : exec i s = .next t) (pins : List (Nat × PinState)) :
    exec i (withPins pins s) = .next (withPins pins t) := by
  have hcheck : checkOf i (withPins pins s) = checkOf i s := by cases i <;> rfl
  rcases exec_cases i s with ⟨k, -, hk, hexec⟩ | ⟨hnone, hexec⟩
  · cases hexec.symm.trans h
    exact exec_of_checkOf_eq_some (hcheck.trans hk)
  · cases hexec.symm.trans h
    rw [exec_of_checkOf_eq_none (hcheck.trans hnone), ← bodyOf_withPins]
    rfl

theorem acceptStep_withPins {c : Command} (h : acceptStep c s = .next t) (pins : List (Nat × PinState)) :
    acceptStep c (withPins pins s) = .next (withPins pins t) := by
  rcases acceptStep_cases c s with ⟨i, hd, haccept⟩ | ⟨e, hd, haccept⟩
  · rw [acceptStep, hd]
    exact exec_withPins (haccept.symm.trans h) pins
  · cases haccept.symm.trans h
    rw [acceptStep, hd]
    rfl

/-- Settles O50: each outcome of the step is the same with another pin table, but for the call's effect on it. -/
theorem engineNeverReadsThePins : Obligations.EngineNeverReadsThePins := by
  intro s t pins ht
  rcases step_cases s with ⟨hr, hstep⟩ | ⟨hr, op, rest, hs, hstep⟩ | ⟨hr, hquiet, hstep⟩ | ⟨hr, hs, c, hc, hstep⟩
  · cases hstep.symm.trans ht
    exact ⟨pins, step_of_rstNow (s := withPins pins s) hr⟩
  · cases hf : ioFailNow s with
    | true =>
      cases (step_run_fail hs hr hf).symm.trans ht
      exact ⟨applyEvent pins ⟨callOf s op, false⟩, step_run_fail (s := withPins pins s) hs hr hf⟩
    | false =>
      cases (step_run_ok hs hr hf).symm.trans ht
      exact ⟨applyEvent pins ⟨callOf s op, true⟩, step_run_ok (s := withPins pins s) hs hr hf⟩
  · cases hstep.symm.trans ht
    exact ⟨pins, step_eq_next_tick (s := withPins pins s) hr hquiet⟩
  · have hp : Presents c (withPins pins s) := ⟨hs, hr, hc⟩
    exact ⟨pins, (step_presents hp).trans (acceptStep_withPins (hstep.symm.trans ht) pins)⟩

/-! ### Reset during a sequence (R134) -/

/-- The host presents nothing in a step and in the steps after it (R17). -/
theorem presented_of_all_wait (h : ∀ m, m ∈ s.host → m = .wait) : presented s = none := by
  unfold presented
  split
  next c later hhost => exact absurd (h (.present c) (by simp [hhost])) (by simp)
  next => rfl

theorem tick_host_all_wait (h : ∀ m, m ∈ s.host → m = .wait) : ∀ m, m ∈ (tick s).host → m = .wait := by
  intro m hm
  apply h
  rw [tick_host] at hm
  unfold hostAfterStep at hm
  split at hm
  next rest hhost => exact hhost ▸ List.mem_cons_of_mem _ hm
  next => exact hm

/-- An idle engine with neither a reset nor a command stays as it is (R131). -/
theorem run_of_idle {n : Nat} {s : State} (hs : s.seq = .idle) (hn : NoReset n s)
    (hhost : ∀ m, m ∈ s.host → m = .wait) (hv : s.respValid = false) :
    ∃ t, run n s = .next t ∧ sameEngine s t ∧ t.respValid = false := by
  induction n generalizing s with
  | zero => exact ⟨s, rfl, rfl, hv⟩
  | succ n ih =>
    obtain ⟨t, hrun, hsame, hvalid⟩ := ih (s := tick s) hs (hn.later rfl) (tick_host_all_wait hhost) rfl
    have hstep := step_eq_next_tick hn.now (.inr ⟨hs, presented_of_all_wait hhost⟩)
    exact ⟨t, (run_succ hstep).trans hrun, (sameEngine_tick s).trans hsame, hvalid⟩

theorem sameEngine.pins {s t : State} (h : sameEngine s t) : t.pins = s.pins := by
  rw [h]

/-- Settles O4: the reset step drops the list, and an idle engine without a command issues nothing. -/
theorem resetDropsTheSequence : Obligations.ResetDropsTheSequence := by
  intro s op rest _ hr
  refine ⟨_, step_of_rstNow hr, rfl, rfl, rfl, rfl, fun n hn hhost => ?_⟩
  obtain ⟨u, hrun, hsame, hvalid⟩ := run_of_idle rfl hn hhost rfl
  exact ⟨u, hrun, hvalid, hsame.trace, hsame.pins⟩

end Sys2Proof.Machine

/-! ## The acceptance steps of the commands (40_init.md to 42_push.md)

A command whose check passes is its body on the accepted word; the laws of the bits say what a later command reads. -/

namespace Sys2Proof.Machine

variable {s : State}

/-! ### INIT and the pushing commands (R66, R78, R85 to R87) -/

/-- The value operand is stored whole when it fits the bus (R56). -/
theorem dataOperand_of_fits {v : Data} (h : Data.fits s.width v = true) : dataOperand s v = v :=
  fitTo_of_fits h

/-- Settles O29: INIT's checks pass, and its body stores the whole value. -/
theorem initStoresAndStartsThePush : Obligations.InitStoresAndStartsThePush := by
  intro ds shcp stcp l v s hc hl1 hl h1 h2 h3 hv
  have hl0 : l ≠ 0 := by
    rintro rfl
    simp at hl1
  -- The body stores `dataOperand s v`, which is what the statement calls `v`.
  conv_rhs => rw [← dataOperand_of_fits hv]
  exact exec_of_checkOf_eq_none (i := .init ds shcp stcp l v) (checkInit_eq_none.2 ⟨hc, ⟨hl0, hl⟩, h1, h2, h3⟩)

/-- Settles O34: the body of WRITE_BITS stores the whole value. -/
theorem writeBitsReplacesTheMirror : Obligations.WriteBitsReplacesTheMirror := by
  intro v s hc hv
  conv_rhs => rw [← dataOperand_of_fits hv]
  exact exec_of_checkOf_eq_none (i := .writeBits v) (checkConfigured_eq_none.2 hc)

/-- Settles O35: the body of LATCH_LOW, written out. -/
theorem latchLowStartsLowOps : Obligations.LatchLowStartsLowOps := fun _ hc =>
  exec_of_checkOf_eq_none (checkConfigured_eq_none.2 hc)

/-- `HighOps` begins with the four micro-operations of the most significant bit (R39, R80). -/
theorem highOps_succ (n : Nat) : highOps (n + 1) = bitOps n ++ highOps n := by
  rw [highOps, shiftOps_succ, List.append_assoc, highOps]

/-- Settles O36: the body of LATCH_HIGH, its list by `highOps_succ`. -/
theorem latchHighStartsHighOps : Obligations.LatchHighStartsHighOps := by
  intro s hc hw
  obtain ⟨n, hn⟩ := Nat.exists_eq_add_of_le' hw
  rw [exec_of_checkOf_eq_none (i := .latchHigh) (checkConfigured_eq_none.2 hc)]
  simp only [bodyOf, latchHighBody, startSeq, shiftWidth_acceptWord, hn, highOps_succ]
  rfl

/-! ### The laws of the mirror commands (R75, R76) -/

/-- TEST_BIT after a command that has left bit `j` of `R` at `b` (R72). -/
theorem testBit_after {k : Instr} {j : Byte} {t : State} {m : Data} {b : Bool} (hk : exec k s = .next t)
    (hc : t.configured = true) (hj : j.toNat < shiftWidth t) (hm : readMirror t = m) (hb : m.getLsbD j.toNat = b) :
    ∃ t u, exec k s = .next t ∧ exec (.testBit j) t = .next u ∧ u.result = some (if b then 1 else 0) := by
  subst hm hb
  exact ⟨t, _, hk, (testBitReadsOneBit j t).1 hc hj, rfl⟩

/-- Settles O39: TEST_BIT reads the bit that WRITE_BIT or INVERT_BIT has left. -/
theorem bitWritesSeenByTestBit : Obligations.BitWritesSeenByTestBit := by
  intro i j v s hc hi hj hv
  obtain ⟨m, hwrite, hwritten⟩ := (writeBitWritesOneBit i v s).1 hc hi hv
  obtain ⟨n, hinvert, hinverted, hback⟩ := (invertBitComplementsOneBit i s).1 hc hi
  refine ⟨testBit_after (m := m) hwrite hc hj rfl ?_, testBit_after (m := n) hinvert hc hj rfl ?_, ?_⟩
  · simpa only [BitVec.toNat_inj] using hwritten j.toNat
  · simpa only [BitVec.toNat_inj] using hinverted j.toNat
  · obtain ⟨u, hu, hmirror⟩ := hback
      { s with cur := i ++ 0x05#8, cnt := 0, mirror := some n, seq := .idle, respValid := true } hc rfl rfl
    exact ⟨_, u, hinvert, hu, hmirror⟩

end Sys2Proof.Machine

/-! ## The lists and the runs of the sequencer (42_push.md)

A run of `ok` calls is said once, by the calls done and the list left (`CallsDone`); the statements about commands,
traces and levels read it off. -/

namespace Sys2Proof.Machine

variable {s t : State}

/-! ### The micro-operation lists (R79, R80, R88) -/

/-- Settles O41: the registers a call reads hold the values named. -/
theorem microOperationCalls : Obligations.MicroOperationCalls := by
  intro s ds shcp stcp v i hds hshcp hstcp hv
  simp [callOf, readDs, readShcp, readStcp, hds, hshcp, hstcp, readCfg_some, readMirror_eq hv, Data.bit]

theorem columnCount_append (col : CallColumn) (l l' : List MicroOp) :
    columnCount col (l ++ l') = columnCount col l + columnCount col l' :=
  List.countP_append

theorem columnCount_bitOps (col : CallColumn) (i : Nat) : columnCount col (bitOps i) =
    match col with
    | .config => 0 | .dataBit => 1 | .dataLow => 1 | .shiftClock => 2 | .latchHigh => 0 | .latchLow => 0 := by
  cases col <;> rfl

theorem columnCount_shiftOps (col : CallColumn) (n : Nat) : columnCount col (shiftOps n) =
    match col with
    | .config => 0 | .dataBit => n | .dataLow => n | .shiftClock => 2 * n | .latchHigh => 0 | .latchLow => 0 := by
  induction n with
  | zero => cases col <;> rfl
  | succ n ih =>
    rw [shiftOps_succ, columnCount_append, columnCount_bitOps, ih]
    cases col <;> simp only <;> omega

theorem columnCount_lowOps (col : CallColumn) : columnCount col lowOps =
    match col with
    | .config => 0 | .dataBit => 0 | .dataLow => 1 | .shiftClock => 1 | .latchHigh => 0 | .latchLow => 1 := by
  cases col <;> rfl

theorem columnCount_highOps (col : CallColumn) (n : Nat) : columnCount col (highOps n) =
    match col with
    | .config => 0 | .dataBit => n | .dataLow => n | .shiftClock => 2 * n | .latchHigh => 1 | .latchLow => 0 := by
  rw [highOps, columnCount_append, columnCount_shiftOps]
  cases col <;> rfl

theorem columnCount_pushOps (col : CallColumn) (n : Nat) : columnCount col (pushOps n) =
    match col with
    | .config => 0 | .dataBit => n | .dataLow => n + 1 | .shiftClock => 2 * n + 1 | .latchHigh => 1
    | .latchLow => 1 := by
  rw [pushOps, columnCount_append, columnCount_lowOps, columnCount_highOps]
  cases col <;> simp only <;> omega

theorem columnCount_initOps (col : CallColumn) (n : Nat) : columnCount col (initOps n) =
    match col with
    | .config => 3 | .dataBit => n | .dataLow => n + 1 | .shiftClock => 2 * n + 1 | .latchHigh => 1
    | .latchLow => 1 := by
  rw [initOps, columnCount_append, columnCount_pushOps]
  cases col <;> simp [columnCount, columnOf]

/-- Settles O42: the lengths and the counts of the parts add up. -/
theorem listLengthsAndCounts : Obligations.ListLengthsAndCounts := fun w =>
  ⟨length_lowOps, length_highOps w, length_pushOps w, length_initOps w, columnCount_lowOps,
    fun col => columnCount_highOps col w, fun col => columnCount_pushOps col w, fun col => columnCount_initOps col w⟩

/-- Only `SH_DATA(i)` reads the mirror, and only its bit `i` (R79). -/
theorem callOf_congr_mirror {v u : Data} {op : MicroOp} (h : ∀ i, op = .shData i → v.bit i = u.bit i) :
    callOf { s with mirror := some v } op = callOf { s with mirror := some u } op := by
  cases op with
  | shData i => exact congrArg _ (h i rfl)
  | _ => rfl

/-- Settles O47: a `SH_DATA(i)` of the list has `i` below the width. -/
theorem highBitsAreNeverShifted : Obligations.HighBitsAreNeverShifted := by
  intro s v u n h
  refine List.map_congr_left fun op hop => congrArg (Event.mk · true) (callOf_congr_mirror fun i hi => h i ?_)
  subst hi
  have hmem : .shData i ∈ shiftOps n := by simpa [initOps, pushOps, lowOps, highOps] using hop
  obtain ⟨j, hj, hop⟩ := mem_shiftOps.1 hmem
  have hij : i = j := by simpa using hop
  exact hij ▸ hj

/-! ### Runs of `ok` calls (R63, R81) -/

theorem okEvents_append (s : State) (l l' : List MicroOp) : okEvents s (l ++ l') = okEvents s l ++ okEvents s l' :=
  List.map_append

/-- The engine `t` after the calls of `done`, all `ok`, from `s`, with `rest` left; the one-step outputs and the
inputs to come aside. -/
def CallsDone (s : State) (done rest : List MicroOp) (t : State) : Prop :=
  t = { s with
    seq := seqOf rest, cnt := s.cnt + BitVec.ofNat 16 done.length, trace := s.trace ++ okEvents s done
    pins := (okEvents s done).foldl applyEvent s.pins
    respValid := t.respValid, ioCall := t.ioCall, host := t.host, rst := t.rst, ioFail := t.ioFail }

section CallsDone
variable {done rest : List MicroOp} (h : CallsDone s done rest t)
include h

theorem CallsDone.seq : t.seq = seqOf rest := by rw [h]
theorem CallsDone.cnt : t.cnt = s.cnt + BitVec.ofNat 16 done.length := by rw [h]
theorem CallsDone.trace : t.trace = s.trace ++ okEvents s done := by rw [h]
theorem CallsDone.pins : t.pins = (okEvents s done).foldl applyEvent s.pins := by rw [h]
theorem CallsDone.mirror : t.mirror = s.mirror := by rw [h]
theorem CallsDone.configured : t.configured = s.configured := by rw [h]
theorem CallsDone.readMirror : readMirror t = readMirror s := by rw [h]; rfl

end CallsDone

/-- One call more at the head: the micro-operations after it find the same registers. -/
theorem CallsDone.cons {op : MicroOp} {done rest left : List MicroOp}
    (h : CallsDone (advance left (issueCall (callOf s op) true (tick s))) done rest t) :
    CallsDone s (op :: done) rest t := by
  have hcalls : okEvents (advance left (issueCall (callOf s op) true (tick s))) done = okEvents s done :=
    List.map_congr_left fun op _ => congrArg (Event.mk · true) (callOf_congr rfl rfl rfl rfl rfl op)
  have hcnt : s.cnt + 1 + BitVec.ofNat 16 done.length = s.cnt + BitVec.ofNat 16 (op :: done).length := by
    rw [BitVec.add_assoc, List.length_cons, Nat.add_comm done.length, BitVec.ofNat_add]
    rfl
  have htrace : s.trace ++ okEvents s (op :: done) = s.trace ++ [⟨callOf s op, true⟩] ++ okEvents s done := by
    simp [okEvents]
  rw [CallsDone, hcalls] at h
  rw [CallsDone, ← hcnt, htrace]
  exact h

/-- As many steps as calls: the sequencer works off its list, head first, and the last call done leaves a response
exactly if the list is used up. -/
theorem run_calls {done rest : List MicroOp} (hs : s.seq = seqOf (done ++ rest)) (hn : NoReset done.length s)
    (hok : CallsOk done.length s) : ∃ t, run done.length s = .next t ∧ CallsDone s done rest t ∧
      t.respValid = if done = [] then s.respValid else rest.isEmpty := by
  induction done generalizing s with
  | nil =>
    refine ⟨s, rfl, ?_, rfl⟩
    rw [List.nil_append] at hs
    simp [CallsDone, okEvents, ← hs]
  | cons op done ih =>
    have hstep := step_run_ok hs hn.now hok.now
    obtain ⟨t, hrun, hdone, hvalid⟩ :=
      ih (s := advance (done ++ rest) (issueCall (callOf s op) true (tick s))) rfl (hn.later rfl) (hok.later rfl)
    refine ⟨t, (run_succ hstep).trans hrun, hdone.cons, hvalid.trans ?_⟩
    cases done <;> rfl

/-- Settles O43: `run_calls` with the whole list done, and with its first `k` micro-operations. -/
theorem sequenceRunsToItsEnd : Obligations.SequenceRunsToItsEnd := by
  intro s op rest hs hn hok
  refine ⟨?_, fun k hk1 hk => ?_⟩
  · obtain ⟨t, hrun, hdone, hvalid⟩ := run_calls (done := op :: rest) (rest := []) (by simpa using hs) hn hok
    refine ⟨t, hrun, hdone.seq, hvalid, hdone.cnt, hdone.trace, hdone.pins, ?_⟩
    rw [hdone]
    exact ⟨rfl, rfl, rfl, rfl, rfl, rfl, rfl, rfl, rfl, rfl, rfl, rfl⟩
  · have hlen : ((op :: rest).take k).length = k := List.length_take_of_le (by simp; omega)
    obtain ⟨t, hrun, hdone, hvalid⟩ := run_calls (done := (op :: rest).take k) (rest := (op :: rest).drop k)
      (by rw [List.take_append_drop]; exact hs) (hn.mono (by omega)) (hok.mono (by omega))
    obtain ⟨op', rest', hleft⟩ := List.exists_cons_of_ne_nil
      (show (op :: rest).drop k ≠ [] by simp [List.drop_eq_nil_iff]; omega)
    have hsome : (op :: rest).take k ≠ [] := List.ne_nil_of_length_pos (by omega)
    rw [hlen] at hrun
    rw [if_neg hsome, hleft] at hvalid
    exact ⟨t, hrun, (busy_iff t).2 ⟨op', rest', by rw [hdone.seq, hleft]; rfl⟩, hvalid, hdone.trace⟩

/-- Settles O40: the sequence leaves `R` and `CONFIGURED` as the acceptance wrote them. -/
theorem writeBitsThenTestAllReturnsIt : Obligations.WriteBitsThenTestAllReturnsIt := by
  intro v s hc hv hn hok
  obtain ⟨u, hrun, hdone, -⟩ := run_calls (done := pushOps (shiftWidth s)) (rest := [])
    (s := { s with cur := 6, cnt := 0, mirror := some v, seq := seqOf (pushOps (shiftWidth s)) }) (by simp)
    (by rw [length_pushOps]; exact hn.congr rfl) (by rw [length_pushOps]; exact hok.congr rfl)
  rw [length_pushOps] at hrun
  refine ⟨_, u, _, writeBitsReplacesTheMirror v s hc hv, hrun, hdone.seq,
    (testAllReadsTheMirror u).1 (hdone.configured.trans hc), congrArg some hdone.readMirror, rfl⟩

end Sys2Proof.Machine

/-! ## Commands from acceptance to completion (70_reset_and_hazards.md section 4)

A command whose check passes is one acceptance step, then `run_calls` over its list, which is empty for a mirror
command. -/

namespace Sys2Proof.Machine

variable {s t : State} {c : Command} {i : Instr}

/-- The list a command's acceptance starts (R67, R80); a mirror command starts none. -/
def opsOf (i : Instr) (w : Nat) : List MicroOp :=
  match i with
  | .init _ _ _ _ _ => initOps w
  | .writeBits _ => pushOps w
  | .latchLow => lowOps
  | .latchHigh => highOps w
  | .testBit _ | .testAll | .writeBit _ _ | .invertBit _ => []

theorem length_opsOf (i : Instr) (w : Nat) : (opsOf i w).length = callsOf i w := by
  cases i with
  | init => exact length_initOps w
  | writeBits => exact length_pushOps w
  | latchHigh => exact length_highOps w
  | _ => rfl

theorem bodyOf_seq (i : Instr) (s : State) : (bodyOf i s).seq = seqOf (opsOf i (widthFor i s)) := by
  cases i <;> rfl

/-- Only a command without a list responds in its acceptance step (R63, R71). -/
theorem bodyOf_respValid (i : Instr) (s : State) :
    (bodyOf i s).respValid = ((opsOf i (widthFor i s)).isEmpty || s.respValid) := by
  cases i with
  | init | writeBits | latchLow => rfl
  | latchHigh =>
    have hsome : (highOps (shiftWidth s)).isEmpty = false := by simpa using highOps_ne_nil (shiftWidth s)
    rw [opsOf, widthFor, hsome]
    rfl
  | _ => rfl

/-- The engine after the step that accepted the command `c`, which decodes to `i` and passed its check. -/
def acceptedBy (i : Instr) (c : Command) (s : State) : State := bodyOf i (acceptWord c.cmd (takeCommand (tick s)))

theorem step_eq_acceptedBy (hp : Presents c s) (hd : decode c = .ok i) (hcheck : specCheck c s = none) :
    step s = .next (acceptedBy i c s) := by
  obtain ⟨j, hj, hstep⟩ := step_of_specCheck_eq_none hp hcheck
  cases hj.symm.trans hd
  exact hstep

/-- The chain's wiring a command uses is the configuration its body leaves (R20, R66). -/
theorem wiringOf_bodyOf (i : Instr) (s : State) : wiringOf (bodyOf i s) = wiringFor i s := by
  cases i <;> rfl

theorem wiringFor_congr {s t : State} (h : wiringOf s = wiringOf t) (i : Instr) : wiringFor i s = wiringFor i t := by
  cases i with
  | init => rfl
  | _ => exact h

theorem stages_wiringFor (i : Instr) (s : State) : (wiringFor i s).stages = widthFor i s := by
  cases i <;> rfl

section AcceptedBy
variable (i : Instr) (c : Command) (s : State)

@[simp] theorem acceptedBy_trace : (acceptedBy i c s).trace = s.trace := bodyOf_trace i _
@[simp] theorem acceptedBy_pins : (acceptedBy i c s).pins = s.pins := bodyOf_pins i _
@[simp] theorem acceptedBy_rst : (acceptedBy i c s).rst = s.rst.tail := bodyOf_rst i _
@[simp] theorem acceptedBy_ioFail : (acceptedBy i c s).ioFail = s.ioFail := bodyOf_ioFail i _

theorem wiringOf_acceptedBy : wiringOf (acceptedBy i c s) = wiringFor i s :=
  (wiringOf_bodyOf i _).trans (wiringFor_congr rfl i)

theorem acceptedBy_seq : (acceptedBy i c s).seq = seqOf (opsOf i (widthFor i s)) :=
  (bodyOf_seq i _).trans (by cases i <;> rfl)

theorem acceptedBy_respValid : (acceptedBy i c s).respValid = (opsOf i (widthFor i s)).isEmpty :=
  (bodyOf_respValid i _).trans ((Bool.or_false _).trans (by cases i <;> rfl))

end AcceptedBy

/-- A command that passes `Check`, one step after acceptance for each call it has made (R149). -/
theorem run_command {k : Nat} (hp : Presents c s) (hd : decode c = .ok i) (hcheck : specCheck c s = none)
    (hk : k ≤ callsOf i (widthFor i s)) (hn : NoReset (k + 1) s) (hok : CallsOk k s) :
    ∃ t, run (k + 1) s = .next t ∧
      CallsDone (acceptedBy i c s) ((opsOf i (widthFor i s)).take k) ((opsOf i (widthFor i s)).drop k) t ∧
      t.respValid = decide (k = callsOf i (widthFor i s)) := by
  have hlen := length_opsOf i (widthFor i s)
  have hseq := acceptedBy_seq i c s
  have hvalid := acceptedBy_respValid i c s
  generalize opsOf i (widthFor i s) = ops at hlen hseq hvalid ⊢
  rw [← hlen] at hk ⊢
  have htake : (ops.take k).length = k := List.length_take_of_le hk
  obtain ⟨t, hrun, hdone, hresp⟩ := run_calls (s := acceptedBy i c s) (done := ops.take k) (rest := ops.drop k)
    (by rw [List.take_append_drop, hseq]) (by rw [htake]; exact hn.later (acceptedBy_rst i c s))
    (by rw [htake]; exact hok.congr (acceptedBy_ioFail i c s))
  rw [htake] at hrun
  refine ⟨t, (run_succ (step_eq_acceptedBy hp hd hcheck)).trans hrun, hdone, hresp.trans ?_⟩
  rw [hvalid]
  split_ifs with hnone
  · rcases List.take_eq_nil_iff.1 hnone with rfl | rfl
    · cases ops <;> simp
    · simp at hk
      simp [hk]
  · rw [Bool.eq_iff_iff, List.isEmpty_iff, List.drop_eq_nil_iff, decide_eq_true_iff]
    omega

/-- A command that passes `Check`, at its completion (R63, R149). -/
theorem run_command_completes (hp : Presents c s) (hd : decode c = .ok i) (hcheck : specCheck c s = none)
    (hn : NoReset (callsOf i (widthFor i s) + 1) s) (hok : CallsOk (callsOf i (widthFor i s)) s) :
    ∃ t, run (callsOf i (widthFor i s) + 1) s = .next t ∧
      CallsDone (acceptedBy i c s) (opsOf i (widthFor i s)) [] t ∧ t.respValid = true := by
  obtain ⟨t, hrun, hdone, hvalid⟩ := run_command hp hd hcheck le_rfl hn hok
  rw [← length_opsOf, List.take_length, List.drop_length] at hdone
  exact ⟨t, hrun, hdone, by simpa using hvalid⟩

/-- A command that has calls left is busy and gives no response (R21, R63). -/
theorem run_command_busy {k : Nat} (hp : Presents c s) (hd : decode c = .ok i) (hcheck : specCheck c s = none)
    (hk : k < callsOf i (widthFor i s)) (hn : NoReset (k + 1) s) (hok : CallsOk k s) :
    ∃ t, run (k + 1) s = .next t ∧ busy t = true ∧ t.respValid = false := by
  obtain ⟨t, hrun, hdone, hvalid⟩ := run_command hp hd hcheck hk.le hn hok
  obtain ⟨op, rest, hleft⟩ := List.exists_cons_of_ne_nil
    (show (opsOf i (widthFor i s)).drop k ≠ [] by rw [Ne, List.drop_eq_nil_iff, length_opsOf]; omega)
  refine ⟨t, hrun, (busy_iff t).2 ⟨op, rest, ?_⟩, ?_⟩
  · rw [hdone.seq, hleft]
    rfl
  · rw [hvalid]
    exact decide_eq_false hk.ne

/-- Settles O44: the two counts are those of `run_command`, and a check fault is one acceptance step. -/
theorem stepCountsOfEveryCommand : Obligations.StepCountsOfEveryCommand := by
  intro s c hp
  refine ⟨fun i hd hcheck hn hok => ⟨?_, fun k hk1 hk => ?_⟩, fun hcheck => ?_⟩
  · obtain ⟨t, hrun, hdone, hvalid⟩ := run_command_completes hp hd hcheck hn hok
    refine ⟨t, hrun, hdone.seq, hvalid, ?_⟩
    rw [hdone.trace, acceptedBy_trace, List.length_append, okEvents, List.length_map, length_opsOf]
  · obtain ⟨k, rfl⟩ := Nat.exists_eq_add_of_le' hk1
    exact run_command_busy hp hd hcheck hk (hn.mono (by omega)) (hok.mono (by omega))
  · obtain ⟨k, hk⟩ := Option.ne_none_iff_exists'.1 hcheck
    exact ⟨_, run_succ (step_of_specCheck_eq_some hp hk), rfl, rfl, rfl⟩

/-! ### The traces of the lists (R85, R86, R66) -/

/-- The shift loop's part of LATCH_HIGH's trace (R86). -/
def shiftTrace (ds shcp : Byte) (v : Data) (n : Nat) : List Event :=
  (List.range n).reverse.flatMap
    fun i => [okWrite shcp false, okWrite ds (v.bit i), okWrite shcp true, okWrite ds false]

theorem shiftTrace_succ (ds shcp : Byte) (v : Data) (n : Nat) : shiftTrace ds shcp v (n + 1) =
    [okWrite shcp false, okWrite ds (v.bit n), okWrite shcp true, okWrite ds false] ++ shiftTrace ds shcp v n := by
  simp [shiftTrace, List.range_succ]

theorem highTrace_eq (ds shcp stcp : Byte) (v : Data) (n : Nat) :
    highTrace ds shcp stcp v n = shiftTrace ds shcp v n ++ [okWrite stcp true] := rfl

theorem okEvents_shiftOps (s : State) (n : Nat) :
    okEvents s (shiftOps n) = shiftTrace (wiringOf s).ds (wiringOf s).shcp (readMirror s) n := by
  induction n with
  | zero => rfl
  | succ n ih =>
    rw [shiftOps_succ, okEvents_append, ih, shiftTrace_succ]
    rfl

theorem okEvents_highOps (s : State) (n : Nat) : okEvents s (highOps n) =
    highTrace (wiringOf s).ds (wiringOf s).shcp (wiringOf s).stcp (readMirror s) n := by
  rw [highOps, okEvents_append, okEvents_shiftOps]
  rfl

theorem okEvents_lowOps (s : State) :
    okEvents s lowOps = lowTrace (wiringOf s).ds (wiringOf s).shcp (wiringOf s).stcp := rfl

theorem okEvents_pushOps (s : State) (n : Nat) : okEvents s (pushOps n) =
    lowTrace (wiringOf s).ds (wiringOf s).shcp (wiringOf s).stcp ++
      highTrace (wiringOf s).ds (wiringOf s).shcp (wiringOf s).stcp (readMirror s) n := by
  rw [pushOps, okEvents_append, okEvents_highOps, okEvents_lowOps]

theorem okEvents_initOps (s : State) (n : Nat) : okEvents s (initOps n) =
    configTrace (wiringOf s).ds (wiringOf s).shcp (wiringOf s).stcp ++
      (lowTrace (wiringOf s).ds (wiringOf s).shcp (wiringOf s).stcp ++
        highTrace (wiringOf s).ds (wiringOf s).shcp (wiringOf s).stcp (readMirror s) n) := by
  rw [initOps, okEvents_append, okEvents_pushOps]
  rfl

/-- The events a command adds when every call is answered `ok` (R66, R85 to R87). -/
def addedTrace (i : Instr) (s : State) : List Event :=
  match i with
  | .init ds shcp stcp l v =>
      configTrace ds shcp stcp ++
        (lowTrace ds shcp stcp ++ highTrace ds shcp stcp (Data.fitTo s.width.bits v) (8 * l.toNat))
  | .writeBits v =>
      lowTrace (readDs s) (readShcp s) (readStcp s) ++
        highTrace (readDs s) (readShcp s) (readStcp s) (Data.fitTo s.width.bits v) (shiftWidth s)
  | .latchLow => lowTrace (readDs s) (readShcp s) (readStcp s)
  | .latchHigh => highTrace (readDs s) (readShcp s) (readStcp s) (readMirror s) (shiftWidth s)
  | .testBit _ | .testAll | .writeBit _ _ | .invertBit _ => []

/-- The events of the command's list, with the pins and the mirror its acceptance left. -/
theorem okEvents_acceptedBy (i : Instr) (c : Command) (s : State) :
    okEvents (acceptedBy i c s) (opsOf i (widthFor i s)) = addedTrace i s := by
  cases i with
  | init =>
    rw [opsOf, okEvents_initOps, wiringOf_acceptedBy]
    rfl
  | writeBits =>
    rw [opsOf, okEvents_pushOps, wiringOf_acceptedBy]
    rfl
  | latchLow =>
    rw [opsOf, okEvents_lowOps, wiringOf_acceptedBy]
    rfl
  | latchHigh =>
    rw [opsOf, okEvents_highOps, wiringOf_acceptedBy]
    rfl
  | testBit | testAll | writeBit | invertBit => rfl

theorem trace_of_callsDone (h : CallsDone (acceptedBy i c s) (opsOf i (widthFor i s)) [] t) :
    t.trace = s.trace ++ addedTrace i s := by
  rw [h.trace, acceptedBy_trace, okEvents_acceptedBy]

/-- Settles O45: at its completion a command has added `addedTrace`. -/
theorem tracesOfThePushingCommands : Obligations.TracesOfThePushingCommands := by
  intro s c i hp hd hcheck hn hok
  obtain ⟨t, hrun, hdone, -⟩ := run_command_completes hp hd hcheck hn hok
  refine ⟨t, hrun, ?_⟩
  have htrace := trace_of_callsDone hdone
  cases i with
  | init | writeBits | latchLow | latchHigh => exact htrace
  | testBit | testAll | writeBit | invertBit => exact htrace.trans (List.append_nil _)

/-! ### The levels of the pins (R27, R84) -/

/-- `LEVEL[p]` in a pin table. -/
def levelIn (pins : List (Nat × PinState)) (p : Byte) : Level := (pinRead pins p.toNat).level

theorem pinLevel_eq (s : State) (p : Byte) : pinLevel s p = levelIn s.pins p := rfl

section LevelIn
variable {pins : List (Nat × PinState)} (h : pinsWf pins = true)
include h

theorem levelIn_okWrite (p q : Byte) (lvl : Bool) :
    levelIn (applyEvent pins (okWrite p lvl)) q = if q = p then levelOf lvl else levelIn pins q := by
  rw [levelIn, pinRead_applyEvent_pin h, apply_ite PinState.level]
  rfl

theorem levelIn_config (p q : Byte) : levelIn (applyEvent pins ⟨.config p, true⟩) q = levelIn pins q := by
  rw [levelIn, pinRead_applyEvent_pin h, apply_ite PinState.level]
  exact ite_id _

/-- Events on other pins keep a pin's level. -/
theorem levelIn_foldl_of_other {p : Byte} {evs : List Event} (hevs : ∀ e ∈ evs, callPin e.call ≠ p) :
    levelIn (evs.foldl applyEvent pins) p = levelIn pins p := by
  induction evs generalizing pins with
  | nil => rfl
  | cons e evs ih =>
    have hother := (List.forall_mem_cons.1 hevs).1
    have hfirst : levelIn (applyEvent pins e) p = levelIn pins p :=
      congrArg PinState.level ((pinRead_applyEvent_pin h e p).trans (if_neg hother.symm))
    exact (ih (applyEvent_wf h e) (List.forall_mem_cons.1 hevs).2).trans hfirst

end LevelIn

/-- A legal configuration has three distinct pins (R116). -/
theorem ConfigLegal.pins_distinct (h : ConfigLegal s) :
    (wiringOf s).ds ≠ (wiringOf s).shcp ∧ (wiringOf s).ds ≠ (wiringOf s).stcp ∧
      (wiringOf s).shcp ≠ (wiringOf s).stcp := by
  obtain ⟨ds, shcp, stcp, l, hds, hshcp, hstcp, -, -, -, hpins⟩ := h
  simpa [wiringOf, readDs, readShcp, readStcp, hds, hshcp, hstcp, readCfg_some] using hpins

/-- The levels of R84 after a push: `DS` 0, `SHCP` 1, `STCP` 1. -/
def LevelsPushed (w : Wiring) (pins : List (Nat × PinState)) : Prop :=
  levelIn pins w.stcp = .high ∧ levelIn pins w.ds = .low ∧ levelIn pins w.shcp = .high

/-- The levels of R84 after LATCH_LOW: all three pins 0. -/
def LevelsLow (w : Wiring) (pins : List (Nat × PinState)) : Prop :=
  levelIn pins w.stcp = .low ∧ levelIn pins w.ds = .low ∧ levelIn pins w.shcp = .low

theorem shiftOps_succ_eq_append (n : Nat) : ∃ before, shiftOps (n + 1) = before ++ bitOps 0 := by
  induction n with
  | zero => exact ⟨[], rfl⟩
  | succ n ih =>
    obtain ⟨before, h⟩ := ih
    exact ⟨bitOps (n + 1) ++ before, by rw [shiftOps_succ, h, List.append_assoc]⟩

/-- INIT's list ends in `HighOps(W)` (R67, R80). -/
theorem initOps_eq_append (n : Nat) :
    initOps n = ([.confDs, .confShcp, .confStcp] ++ lowOps) ++ highOps n := by
  rw [initOps, pushOps, List.append_assoc]

section Levels
variable {pins : List (Nat × PinState)} (hlegal : ConfigLegal s) (h : pinsWf pins = true)
include hlegal h

theorem levelsLow_lowOps : LevelsLow (wiringOf s) ((okEvents s lowOps).foldl applyEvent pins) := by
  obtain ⟨h1, h2, h3⟩ := hlegal.pins_distinct
  rw [okEvents_lowOps]
  generalize wiringOf s = w at h1 h2 h3 ⊢
  have hstcp := applyEvent_wf h (okWrite w.stcp false)
  have hds := applyEvent_wf hstcp (okWrite w.ds false)
  simp [LevelsLow, lowTrace, levelIn_okWrite, h, hstcp, hds, h1, h2.symm, h3.symm, levelOf]

/-- The last bit leaves `DS` 0 and `SHCP` 1, and `LH_STCP` leaves `STCP` 1. -/
theorem levelsPushed_lastBit :
    LevelsPushed (wiringOf s) ((okEvents s (bitOps 0 ++ [.lhStcp])).foldl applyEvent pins) := by
  obtain ⟨h1, h2, h3⟩ := hlegal.pins_distinct
  rw [show bitOps 0 ++ [.lhStcp] = highOps 1 from rfl, okEvents_highOps, highTrace_eq, shiftTrace_succ]
  generalize wiringOf s = w at h1 h2 h3 ⊢
  have hlow := applyEvent_wf h (okWrite w.shcp false)
  have hdata := applyEvent_wf hlow (okWrite w.ds ((readMirror s).bit 0))
  have hhigh := applyEvent_wf hdata (okWrite w.shcp true)
  have hdone := applyEvent_wf hhigh (okWrite w.ds false)
  simp [LevelsPushed, shiftTrace, levelIn_okWrite, hdata, hhigh, hdone, h1.symm, h2, h3, levelOf]

/-- Any list that ends in `HighOps(W)` with `W` at least 1 ends in its last bit and `LH_STCP`. -/
theorem levelsPushed_of_highOps {n : Nat} (hn : 1 ≤ n) (before : List MicroOp) :
    LevelsPushed (wiringOf s) ((okEvents s (before ++ highOps n)).foldl applyEvent pins) := by
  obtain ⟨n, rfl⟩ := Nat.exists_eq_add_of_le' hn
  obtain ⟨bits, hbits⟩ := shiftOps_succ_eq_append n
  rw [highOps, hbits, List.append_assoc, ← List.append_assoc, okEvents_append, List.foldl_append]
  exact levelsPushed_lastBit hlegal (foldl_applyEvent_wf h _)

end Levels

/-- Settles O46: every list ends in LATCH_LOW's writes or in the last bit and `LH_STCP`. -/
theorem levelsAfterEachList : Obligations.LevelsAfterEachList := by
  intro s ops hlegal hpins hs hn hok
  obtain ⟨t, hrun, hdone, -⟩ := run_calls (done := ops) (rest := []) (by rw [List.append_nil, hs]) hn hok
  have hw : 1 ≤ shiftWidth s := by have := hlegal.shiftWidth_bounds; omega
  refine ⟨t, hrun, ?_⟩
  simp only [pinLevel_eq, hdone.pins]
  refine ⟨?_, ?_⟩
  · rintro rfl
    exact levelsLow_lowOps hlegal hpins
  · rintro (rfl | rfl | rfl)
    · exact levelsPushed_of_highOps hlegal hpins hw []
    · exact levelsPushed_of_highOps hlegal hpins hw lowOps
    · rw [initOps_eq_append]
      exact levelsPushed_of_highOps hlegal hpins hw _

end Sys2Proof.Machine

/-! ## The chain (42_push.md section 3; the reference model of log 12)

What an event does to the set of chain states: an event that makes no rising edge of a clock changes nothing, the shift
loop pushes the bits of `R`, and `LH_STCP` copies them to the outputs. -/

namespace Sys2Proof.Machine

/-! ### The set of chain states, one event at a time (R92, R95) -/

theorem pinsOfTrace_wf (tr : List Event) : pinsWf (pinsOfTrace tr) = true :=
  foldl_applyEvent_wf rfl tr

theorem chainObservation_snoc (w : Wiring) (tr : List Event) (e : Event) :
    chainObservation w (tr ++ [e]) = chainStep w (chainObservation w tr) e := by
  simp [chainObservation]

theorem chainObservation_pins (w : Wiring) (tr : List Event) : (chainObservation w tr).1 = pinsOfTrace tr := by
  induction tr using List.reverseRecOn with
  | nil => rfl
  | append_singleton tr e ih => rw [chainObservation_snoc, pinsOfTrace_snoc, ← ih]; rfl

theorem chainStates_snoc (w : Wiring) (tr : List Event) (e : Event) :
    chainStates w (tr ++ [e]) = ((chainStates w tr).flatMap (chainAfter w (pinsOfTrace tr) e)).dedup := by
  rw [chainStates, chainObservation_snoc, ← chainObservation_pins w tr]
  rfl

/-- `Chain(trace)` as a set. -/
def chainSet (w : Wiring) (tr : List Event) : Set ChainState := {q | q ∈ chainStates w tr}

theorem mem_chainSet {w : Wiring} {tr : List Event} {q : ChainState} : q ∈ chainSet w tr ↔ q ∈ chainStates w tr :=
  Iff.rfl

theorem mem_chainSet_snoc {w : Wiring} {tr : List Event} {e : Event} {q : ChainState} :
    q ∈ chainSet w (tr ++ [e]) ↔ ∃ c ∈ chainSet w tr, q ∈ chainAfter w (pinsOfTrace tr) e c := by
  simp only [mem_chainSet, chainStates_snoc, List.mem_dedup, List.mem_flatMap]

/-- An event that leads from each chain state to one chain state. -/
theorem chainSet_snoc_of_forall {w : Wiring} {tr : List Event} {e : Event} (f : ChainState → ChainState)
    (h : ∀ c q, q ∈ chainAfter w (pinsOfTrace tr) e c ↔ q = f c) : chainSet w (tr ++ [e]) = f '' chainSet w tr := by
  ext q
  rw [mem_chainSet_snoc, Set.mem_image]
  refine exists_congr fun c => and_congr_right fun _ => (h c q).trans eq_comm

/-! ### Events that make no rising edge of a clock (R92) -/

/-- An `ok` event other than a rise of a clock pin leads nowhere else. -/
theorem chainSet_snoc_of_quiet {w : Wiring} {tr : List Event} {e : Event}
    (h : ∀ c q, q ∈ chainAfter w (pinsOfTrace tr) e c ↔ q = c) : chainSet w (tr ++ [e]) = chainSet w tr :=
  (chainSet_snoc_of_forall id h).trans (Set.image_id _)

theorem chainSet_write_low (w : Wiring) (tr : List Event) (p : Byte) :
    chainSet w (tr ++ [okWrite p false]) = chainSet w tr :=
  chainSet_snoc_of_quiet fun _ _ => List.mem_singleton

theorem chainSet_config (w : Wiring) (tr : List Event) (p : Byte) :
    chainSet w (tr ++ [⟨.config p, true⟩]) = chainSet w tr :=
  chainSet_snoc_of_quiet fun _ _ => List.mem_singleton

/-- A rise of a pin that is no clock does nothing to the chain (R93, R94). -/
theorem edgeEffect_of_other {w : Wiring} {p : Byte} (h1 : p ≠ w.shcp) (h2 : p ≠ w.stcp)
    (pins : List (Nat × PinState)) (c : ChainState) : edgeEffect w pins p c = c := by
  rw [edgeEffect, if_neg h1, if_neg h2]

theorem chainSet_write_other {w : Wiring} {p : Byte} (h1 : p ≠ w.shcp) (h2 : p ≠ w.stcp) (tr : List Event)
    (lvl : Bool) : chainSet w (tr ++ [okWrite p lvl]) = chainSet w tr := by
  refine chainSet_snoc_of_quiet fun c q => ?_
  rw [chainAfter, show callPin (okWrite p lvl).call = p from rfl, edgeEffect_of_other h1 h2]
  split <;> simp

/-- A rise from level 0 is one rising edge (R92). -/
theorem chainSet_write_high_of_low {w : Wiring} {tr : List Event} {p : Byte}
    (h : levelIn (pinsOfTrace tr) p = .low) :
    chainSet w (tr ++ [okWrite p true]) = edgeEffect w (pinsOfTrace tr) p '' chainSet w tr := by
  have hedge : edgeOf (pinsOfTrace tr) (okWrite p true) = .rising := by
    rw [levelIn] at h
    simp [edgeOf, okWrite, h]
  refine chainSet_snoc_of_forall _ fun c q => ?_
  rw [chainAfter, hedge]
  exact List.mem_singleton

/-- A write of 1 to a pin at level 1 makes no edge (R92). -/
theorem chainSet_write_high_of_high {w : Wiring} {tr : List Event} {p : Byte}
    (h : levelIn (pinsOfTrace tr) p = .high) : chainSet w (tr ++ [okWrite p true]) = chainSet w tr := by
  have hedge : edgeOf (pinsOfTrace tr) (okWrite p true) = .none := by
    rw [levelIn] at h
    simp [edgeOf, okWrite, h]
  refine chainSet_snoc_of_quiet fun c q => ?_
  rw [chainAfter, hedge]
  exact List.mem_singleton

theorem levelIn_snoc_okWrite (tr : List Event) (p q : Byte) (lvl : Bool) :
    levelIn (pinsOfTrace (tr ++ [okWrite p lvl])) q = if q = p then levelOf lvl else levelIn (pinsOfTrace tr) q := by
  rw [pinsOfTrace_snoc, levelIn_okWrite (pinsOfTrace_wf tr)]

/-- LATCH_LOW's events, whatever the wiring (R141). -/
theorem chainSet_lowTrace (w : Wiring) (tr : List Event) (ds shcp stcp : Byte) :
    chainSet w (tr ++ lowTrace ds shcp stcp) = chainSet w tr := by
  rw [lowTrace, List.append_cons, List.append_cons _ (okWrite ds false), chainSet_write_low, chainSet_write_low,
    chainSet_write_low]

/-! ### The invariants of the set (R91, R95) -/

/-- An edge moves values along the shift stage and never changes its length (R93, R94). -/
theorem length_shift_edgeEffect (w : Wiring) (pins : List (Nat × PinState)) (p : Byte) (c : ChainState) :
    (edgeEffect w pins p c).shift.length = c.shift.length := by
  unfold edgeEffect
  split_ifs
  · simp [shiftEdge]
  · rfl
  · rfl

theorem mem_chainAfter {w : Wiring} {pins : List (Nat × PinState)} {e : Event} {c q : ChainState}
    (h : q ∈ chainAfter w pins e c) : q = c ∨ q = edgeEffect w pins (callPin e.call) c := by
  unfold chainAfter at h
  split at h
  · exact .inl (List.mem_singleton.1 h)
  · exact .inr (List.mem_singleton.1 h)
  · simpa using h

theorem length_shift_of_mem {w : Wiring} {tr : List Event} {q : ChainState} (h : q ∈ chainSet w tr) :
    q.shift.length = w.stages := by
  induction tr using List.reverseRecOn generalizing q with
  | nil =>
    rw [mem_chainSet, chainStates_nil, List.mem_singleton] at h
    simp [h, ChainState.powerOn]
  | append_singleton tr e ih =>
    obtain ⟨c, hc, hq⟩ := mem_chainSet_snoc.1 h
    rcases mem_chainAfter hq with rfl | rfl
    · exact ih hc
    · exact (length_shift_edgeEffect _ _ _ _).trans (ih hc)

theorem chainAfter_nonempty (w : Wiring) (pins : List (Nat × PinState)) (e : Event) (c : ChainState) :
    ∃ q, q ∈ chainAfter w pins e c := by
  unfold chainAfter
  split <;> exact ⟨_, List.mem_cons_self⟩

theorem chainSet_nonempty (w : Wiring) (tr : List Event) : (chainSet w tr).Nonempty := by
  induction tr using List.reverseRecOn with
  | nil => exact ⟨_, List.mem_cons_self⟩
  | append_singleton tr e ih =>
    obtain ⟨c, hc⟩ := ih
    obtain ⟨q, hq⟩ := chainAfter_nonempty w (pinsOfTrace tr) e c
    exact ⟨q, mem_chainSet_snoc.2 ⟨c, hc, hq⟩⟩

theorem chainStates_nodup (w : Wiring) (tr : List Event) : (chainStates w tr).Nodup := by
  induction tr using List.reverseRecOn with
  | nil => exact List.nodup_singleton _
  | append_singleton tr e _ =>
    rw [chainStates_snoc]
    exact List.nodup_dedup _

/-- A list without repeats whose only member is `a`. -/
theorem chainStates_eq_singleton {w : Wiring} {tr : List Event} {a : ChainState} (h : ∀ q ∈ chainSet w tr, q = a) :
    chainStates w tr = [a] := by
  have hperm : (chainStates w tr).Perm [a] := by
    refine (List.perm_ext_iff_of_nodup (chainStates_nodup w tr) (List.nodup_singleton a)).2 fun q => ?_
    refine ⟨fun hq => List.mem_singleton.2 (h q hq), fun hq => ?_⟩
    obtain ⟨c, hc⟩ := chainSet_nonempty w tr
    rwa [List.mem_singleton.1 hq, ← h c hc]
  exact List.perm_singleton.1 hperm

/-! ### The shift loop (R39, R93) -/

/-- What pushing bits `n-1..0` of `v` does to a chain: they stand in front of what the shift stage held. -/
def pushBits (v : Data) (n : Nat) (c : ChainState) : ChainState :=
  { c with shift := (levelsOf v n ++ c.shift).take c.shift.length }

@[simp] theorem length_levelsOf (v : Data) (n : Nat) : (levelsOf v n).length = n := by
  simp [levelsOf]

theorem levelsOf_succ (v : Data) (n : Nat) : levelsOf v (n + 1) = levelsOf v n ++ [levelOf (v.bit n)] := by
  simp [levelsOf, List.range_succ]

theorem pushBits_zero (v : Data) (c : ChainState) : pushBits v 0 c = c := by
  simp [pushBits, levelsOf]

/-- Bit `n` is pushed before the bits below it. -/
theorem pushBits_succ (v : Data) (n : Nat) (c : ChainState) :
    pushBits v (n + 1) c = pushBits v n (shiftEdge (levelOf (v.bit n)) c) := by
  simp only [pushBits, shiftEdge, levelsOf_succ]
  simp [List.take_append, List.take_take]

theorem pushBits_of_length {v : Data} {n : Nat} {c : ChainState} (h : c.shift.length = n) :
    pushBits v n c = ⟨levelsOf v n, c.out⟩ := by
  rw [pushBits, h, List.take_left' (length_levelsOf v n)]

/-- The shift loop does not touch `STCP`. -/
theorem levelIn_shiftTrace {w : Wiring} (h2 : w.ds ≠ w.stcp) (h3 : w.shcp ≠ w.stcp) (tr : List Event) (v : Data)
    (n : Nat) : levelIn (pinsOfTrace (tr ++ shiftTrace w.ds w.shcp v n)) w.stcp =
      levelIn (pinsOfTrace tr) w.stcp := by
  rw [pinsOfTrace, List.foldl_append]
  refine levelIn_foldl_of_other (pinsOfTrace_wf tr) fun e he => ?_
  obtain ⟨i, -, hi⟩ := List.mem_flatMap.1 he
  fin_cases hi
  · exact h3
  · exact h2
  · exact h3
  · exact h2

section Push
variable {w : Wiring} (h1 : w.ds ≠ w.shcp) (h2 : w.ds ≠ w.stcp) (h3 : w.shcp ≠ w.stcp)
include h1 h2

/-- The four events of one bit: one rising edge of the shift-clock, with the data line at the bit (R93). -/
theorem chainSet_bit (tr : List Event) (b : Bool) :
    chainSet w (tr ++ [okWrite w.shcp false, okWrite w.ds b, okWrite w.shcp true, okWrite w.ds false]) =
      shiftEdge (levelOf b) '' chainSet w tr := by
  have hclock : levelIn (pinsOfTrace (tr ++ [okWrite w.shcp false] ++ [okWrite w.ds b])) w.shcp = .low := by
    rw [levelIn_snoc_okWrite, if_neg h1.symm, levelIn_snoc_okWrite, if_pos rfl]
    rfl
  have hdata : levelIn (pinsOfTrace (tr ++ [okWrite w.shcp false] ++ [okWrite w.ds b])) w.ds = levelOf b := by
    rw [levelIn_snoc_okWrite, if_pos rfl]
  have hedge : edgeEffect w (pinsOfTrace (tr ++ [okWrite w.shcp false] ++ [okWrite w.ds b])) w.shcp =
      shiftEdge (levelOf b) := by
    funext c
    rw [edgeEffect, if_pos rfl, ← hdata]
    rfl
  rw [List.append_cons, List.append_cons _ (okWrite w.ds b), List.append_cons _ (okWrite w.shcp true),
    chainSet_write_low, chainSet_write_high_of_low hclock, hedge, chainSet_write_other h1 h2, chainSet_write_low]

theorem chainSet_shiftTrace (tr : List Event) (v : Data) (n : Nat) :
    chainSet w (tr ++ shiftTrace w.ds w.shcp v n) = pushBits v n '' chainSet w tr := by
  induction n generalizing tr with
  | zero =>
    have hid : pushBits v 0 = id := funext (pushBits_zero v)
    rw [hid, Set.image_id]
    exact congrArg _ (List.append_nil tr)
  | succ n ih =>
    have hsucc : pushBits v (n + 1) = pushBits v n ∘ shiftEdge (levelOf (v.bit n)) := funext (pushBits_succ v n)
    rw [shiftTrace_succ, ← List.append_assoc, ih, chainSet_bit h1 h2, hsucc, Set.image_comp]

/-- After all `8L` bits the shift stage holds them, and the outputs are as before. -/
theorem chainSet_shiftTrace_full (tr : List Event) (v : Data) {q : ChainState}
    (hq : q ∈ chainSet w (tr ++ shiftTrace w.ds w.shcp v w.stages)) :
    ∃ c ∈ chainSet w tr, q = ⟨levelsOf v w.stages, c.out⟩ := by
  rw [chainSet_shiftTrace h1 h2] at hq
  obtain ⟨c, hc, rfl⟩ := hq
  exact ⟨c, hc, pushBits_of_length (length_shift_of_mem hc)⟩

include h3

/-- A push onto a chain whose latch-clock is low ends with the bits in both stages (R94, R96). -/
theorem chainSet_highTrace_of_low {tr : List Event} (hlow : levelIn (pinsOfTrace tr) w.stcp = .low) (v : Data) :
    ∀ q ∈ chainSet w (tr ++ highTrace w.ds w.shcp w.stcp v w.stages),
      q = ⟨levelsOf v w.stages, levelsOf v w.stages⟩ := by
  intro q hq
  rw [highTrace_eq, ← List.append_assoc,
    chainSet_write_high_of_low ((levelIn_shiftTrace h2 h3 tr v _).trans hlow)] at hq
  obtain ⟨q0, hq0, rfl⟩ := hq
  obtain ⟨c, -, rfl⟩ := chainSet_shiftTrace_full h1 h2 tr v hq0
  rw [edgeEffect, if_neg h3.symm, if_pos rfl]
  rfl

/-- A push onto a chain whose latch-clock is high leaves the outputs as they were (R140). -/
theorem chainSet_highTrace_of_high {tr : List Event} (hhigh : levelIn (pinsOfTrace tr) w.stcp = .high) (v : Data) :
    ∀ q ∈ chainSet w (tr ++ highTrace w.ds w.shcp w.stcp v w.stages),
      ∃ c ∈ chainSet w tr, q = ⟨levelsOf v w.stages, c.out⟩ := by
  intro q hq
  rw [highTrace_eq, ← List.append_assoc,
    chainSet_write_high_of_high ((levelIn_shiftTrace h2 h3 tr v _).trans hhigh)] at hq
  exact chainSet_shiftTrace_full h1 h2 tr v hq

/-- Whatever the level of the latch-clock, the shift stage ends with the bits (R96). -/
theorem shift_of_mem_highTrace (tr : List Event) (v : Data) :
    ∀ q ∈ chainSet w (tr ++ highTrace w.ds w.shcp w.stcp v w.stages), q.shift = levelsOf v w.stages := by
  intro q hq
  rw [highTrace_eq, ← List.append_assoc] at hq
  obtain ⟨q0, hq0, hedge⟩ := mem_chainSet_snoc.1 hq
  obtain ⟨c, -, rfl⟩ := chainSet_shiftTrace_full h1 h2 tr v hq0
  rcases mem_chainAfter hedge with rfl | rfl
  · rfl
  · rw [show callPin (okWrite w.stcp true).call = w.stcp from rfl, edgeEffect, if_neg h3.symm, if_pos rfl]
    rfl

/-- LATCH_LOW then LATCH_HIGH, from any trace: both stages hold the bits (R96). -/
theorem chainStates_pushTrace (tr : List Event) (v : Data) :
    chainStates w (tr ++ (lowTrace w.ds w.shcp w.stcp ++ highTrace w.ds w.shcp w.stcp v w.stages)) =
      [⟨levelsOf v w.stages, levelsOf v w.stages⟩] := by
  have hlow : levelIn (pinsOfTrace (tr ++ lowTrace w.ds w.shcp w.stcp)) w.stcp = .low := by
    rw [lowTrace, List.append_cons, List.append_cons _ (okWrite w.ds false)]
    simp only [levelIn_snoc_okWrite, if_neg h2.symm, if_neg h3.symm, if_pos, levelOf]
    rfl
  refine chainStates_eq_singleton ?_
  rw [← List.append_assoc]
  exact chainSet_highTrace_of_low h1 h2 h3 hlow v

end Push

end Sys2Proof.Machine

/-! ## The commands on the chain (42_push.md section 3, 70_reset_and_hazards.md section 3)

A command that passes `Check` adds `addedTrace` over the pins and the wiring its acceptance left, which the invariant
makes legal; what its events do to the chain is said above. -/

namespace Sys2Proof.Machine

variable {s : State} {c : Command} {i : Instr}

/-! ### What a command that passes `Check` finds on the pins and on the bus -/

/-- The body of a command whose check passed leaves `CONFIGURED = 1` (R66, R113). -/
theorem bodyOf_configured (hcheck : checkOf i s = none) : (bodyOf i s).configured = true := by
  cases i with
  | init => rfl
  | testBit | writeBit | invertBit => exact (checkIndex_eq_none.1 hcheck).1
  | testAll | writeBits | latchLow | latchHigh => exact checkConfigured_eq_none.1 hcheck

theorem checkOf_acceptWord (i : Instr) (w : CmdWord) (s : State) : checkOf i (acceptWord w s) = checkOf i s := by
  cases i <;> rfl

theorem acceptedBy_configured (hcheck : checkOf i s = none) (c : Command) : (acceptedBy i c s).configured = true :=
  bodyOf_configured ((checkOf_acceptWord _ _ _).trans ((checkOf_takeCommand_tick i s).trans hcheck))

section Accepted
variable (hinv : EngineInv s) (hp : Presents c s) (hd : decode c = .ok i) (hcheck : specCheck c s = none)
include hinv hp hd hcheck

theorem configLegal_acceptedBy : ConfigLegal (acceptedBy i c s) := by
  have hkept := everyStepKeepsTheInvariant s _ hinv (step_eq_acceptedBy hp hd hcheck)
  rw [specCheck_of_decode_ok hd] at hcheck
  exact (hkept.configLegal (acceptedBy_configured hcheck c)).1

/-- A command that passes its check uses at least one 8-bit IC (R115). -/
theorem one_le_widthFor : 1 ≤ widthFor i s := by
  have hwidth : shiftWidth (acceptedBy i c s) = widthFor i s :=
    (congrArg Wiring.stages (wiringOf_acceptedBy i c s)).trans (stages_wiringFor i s)
  have hbounds := (configLegal_acceptedBy hinv hp hd hcheck).shiftWidth_bounds
  omega

theorem wiringFor_distinct : (wiringFor i s).ds ≠ (wiringFor i s).shcp ∧ (wiringFor i s).ds ≠ (wiringFor i s).stcp ∧
    (wiringFor i s).shcp ≠ (wiringFor i s).stcp := by
  rw [← wiringOf_acceptedBy i c s]
  exact (configLegal_acceptedBy hinv hp hd hcheck).pins_distinct

end Accepted

/-- The data bus carries `SW` bits (R32). -/
theorem Presents.data_fits (hp : Presents c s) : Data.fits s.width c.data = true := by
  obtain ⟨-, -, hc⟩ := hp
  unfold presented at hc
  split at hc
  next c' later _ =>
    cases hc
    exact (Data.fits_iff _ _).2 (Data.toNat_fitTo_lt _ _)
  next => cases hc

theorem EngineInv.pinLevel_eq_levelIn (h : EngineInv s) (p : Byte) :
    pinLevel s p = levelIn (pinsOfTrace s.trace) p := by
  rw [pinLevel_eq, h.pinsTrace]

/-- A command word written out, and what it decodes to (R57). -/
theorem decode_of_cmd {w : CmdWord} {i : Instr} (hc : c.cmd = w) (h : decode ⟨w, c.data, c.cfg⟩ = .ok i) :
    decode c = .ok i := by
  subst hc
  exact h

theorem specCheck_of_configured (hd : decode c = .ok i) (hi : ∀ s, checkOf i s = checkConfigured s)
    (hc : s.configured = true) : specCheck c s = none := by
  rw [specCheck_of_decode_ok hd, hi]
  exact checkConfigured_eq_none.2 hc

/-! ### The pushing commands on the chain -/

/-- Settles O56: the shift loop loads the stages, and `LH_STCP` is an edge exactly if `STCP` was low. -/
theorem latchHighLoadsTheChain : Obligations.LatchHighLoadsTheChain := by
  intro s c hinv hp hc hconf hn hok
  obtain ⟨-, -, -, -, -, -, -, h, -⟩ := opcodeMapAndOperandFields 0 c.data c.cfg
  have hd : decode c = .ok .latchHigh := decode_of_cmd hc h
  have hcheck := specCheck_of_configured hd (fun _ => rfl) hconf
  obtain ⟨h1, h2, h3⟩ := wiringFor_distinct hinv hp hd hcheck
  obtain ⟨t, hrun, hdone, hvalid⟩ := run_command_completes hp hd hcheck hn hok
  have htrace := trace_of_callsDone hdone
  obtain ⟨q, hq⟩ := chainSet_nonempty (wiringOf s) t.trace
  refine ⟨t, hrun, hdone.seq, hvalid, List.ne_nil_of_mem hq, ?_, fun hlow q hq => ?_, fun hhigh q hq => ?_⟩
  · rw [htrace]
    exact shift_of_mem_highTrace h1 h2 h3 s.trace (readMirror s)
  · rw [htrace] at hq
    rw [hinv.pinLevel_eq_levelIn] at hlow
    rw [chainSet_highTrace_of_low h1 h2 h3 hlow (readMirror s) q hq]
    rfl
  · rw [htrace] at hq
    rw [hinv.pinLevel_eq_levelIn] at hhigh
    obtain ⟨q0, hq0, rfl⟩ := chainSet_highTrace_of_high h1 h2 h3 hhigh (readMirror s) q hq
    exact ⟨q0, hq0, rfl⟩

/-- Settles O57: a push whatever the chain held, with the value the bus carries. -/
theorem writeBitsShowsOnTheChain : Obligations.WriteBitsShowsOnTheChain := by
  intro s c hinv hp hc hconf hn hok
  obtain ⟨-, -, -, -, -, h, -⟩ := opcodeMapAndOperandFields 0 c.data c.cfg
  have hd : decode c = .ok (.writeBits c.data) := decode_of_cmd hc h
  have hcheck := specCheck_of_configured hd (fun _ => rfl) hconf
  have hdata := fitTo_of_fits hp.data_fits
  obtain ⟨h1, h2, h3⟩ := wiringFor_distinct hinv hp hd hcheck
  obtain ⟨t, hrun, hdone, -⟩ := run_command_completes hp hd hcheck hn hok
  have htrace := trace_of_callsDone hdone
  refine ⟨t, hrun, hdone.seq, hdone.mirror.trans (congrArg some hdata), ?_⟩
  rw [htrace, addedTrace, hdata]
  exact chainStates_pushTrace h1 h2 h3 s.trace c.data

/-- Settles O58: INIT's own configuration is the wiring, and its list ends in a push. -/
theorem initShowsOnTheChain : Obligations.InitShowsOnTheChain := by
  intro s c ds shcp stcp l v hinv hp hcheck hd hn hok
  obtain ⟨hv | hv, -⟩ := encode_buses_of_decode hd
  · simp [encodeData] at hv
  have hdata : Data.fitTo s.width.bits v = v := by
    rw [Option.some.inj hv]
    exact fitTo_of_fits hp.data_fits
  have hlegal := configLegal_acceptedBy hinv hp hd hcheck
  obtain ⟨h1, h2, h3⟩ := wiringFor_distinct hinv hp hd hcheck
  obtain ⟨t, hrun, hdone, -⟩ := run_command_completes hp hd hcheck hn hok
  have htrace := trace_of_callsDone hdone
  have hlevels : LevelsPushed (wiringFor (.init ds shcp stcp l v) s) t.pins := by
    rw [hdone.pins, acceptedBy_pins, ← wiringOf_acceptedBy _ c s]
    rw [opsOf, initOps_eq_append]
    exact levelsPushed_of_highOps hlegal hinv.pinsCanonical (one_le_widthFor hinv hp hd hcheck) _
  obtain ⟨hstcp, hds, hshcp⟩ := hlevels
  refine ⟨t, hrun, hdone.seq, hdone.configured, hdone.mirror.trans (congrArg some hdata), ?_, hds, hshcp, hstcp, ?_⟩
  · rw [hdone.trace, acceptedBy_trace, List.length_append, okEvents, List.length_map, length_opsOf]
    rfl
  · rw [htrace, addedTrace, hdata, ← List.append_assoc]
    exact chainStates_pushTrace h1 h2 h3 (s.trace ++ configTrace ds shcp stcp) v

/-- Settles O59: three writes of 0 make no edge. -/
theorem latchLowTransfersNothing : Obligations.LatchLowTransfersNothing := by
  intro s c hinv hp hc hconf hn hok
  obtain ⟨-, -, -, -, -, -, h, -⟩ := opcodeMapAndOperandFields 0 c.data c.cfg
  have hd : decode c = .ok .latchLow := decode_of_cmd hc h
  have hcheck := specCheck_of_configured hd (fun _ => rfl) hconf
  have hlegal := configLegal_acceptedBy hinv hp hd hcheck
  obtain ⟨t, hrun, hdone, -⟩ := run_command_completes hp hd hcheck hn hok
  have hlevels : LevelsLow (wiringFor .latchLow s) t.pins := by
    rw [hdone.pins, acceptedBy_pins, ← wiringOf_acceptedBy _ c s]
    exact levelsLow_lowOps hlegal hinv.pinsCanonical
  obtain ⟨hstcp, hds, hshcp⟩ := hlevels
  refine ⟨t, hrun, hdone.seq, hstcp, hds, hshcp, fun w q => ?_⟩
  rw [hdone.trace, acceptedBy_trace, ← mem_chainSet, ← mem_chainSet]
  exact iff_of_eq (congrArg (q ∈ ·) (chainSet_lowTrace w s.trace _ _ _))

/-! ### The outputs up to `LH_STCP` (R142) -/

theorem out_edgeEffect_of_ne {w : Wiring} {p : Byte} (h : p ≠ w.stcp) (pins : List (Nat × PinState))
    (q : ChainState) : (edgeEffect w pins p q).out = q.out := by
  unfold edgeEffect
  split_ifs
  · rfl
  · rfl

/-- An `ok` event other than a write of 1 to `STCP` keeps the outputs (R92, R94). -/
theorem out_of_mem_snoc {w : Wiring} {tr : List Event} {call : PinCall} (h : call ≠ .write w.stcp true)
    {q : ChainState} (hq : q ∈ chainSet w (tr ++ [⟨call, true⟩])) : ∃ q0 ∈ chainSet w tr, q.out = q0.out := by
  match call with
  | .config p =>
    rw [chainSet_config] at hq
    exact ⟨q, hq, rfl⟩
  | .write p false =>
    exact ⟨q, (chainSet_write_low w tr p).le hq, rfl⟩
  | .write p true =>
    have hp : p ≠ w.stcp := fun hp => h (hp ▸ rfl)
    obtain ⟨q0, hq0, hafter⟩ := mem_chainSet_snoc.1 hq
    refine ⟨q0, hq0, ?_⟩
    rcases mem_chainAfter hafter with rfl | rfl
    · rfl
    · exact out_edgeEffect_of_ne hp _ _

/-- A micro-operation other than `LH_STCP` does not raise `STCP` (R79). -/
theorem callOf_ne_write_stcp_high (hlegal : ConfigLegal s) {op : MicroOp} (hop : op ≠ .lhStcp) :
    callOf s op ≠ .write (wiringOf s).stcp true := by
  obtain ⟨-, h2, h3⟩ := hlegal.pins_distinct
  cases op with
  | lhStcp => exact absurd rfl hop
  | shData i => exact fun h => h2 (PinCall.write.inj h).1
  | shClkHi i => exact fun h => h3 (PinCall.write.inj h).1
  | confDs | confShcp | confStcp => exact nofun
  | _ => exact fun h => Bool.false_ne_true (PinCall.write.inj h).2

/-- The outputs hold through any list without `LH_STCP`. -/
theorem out_of_mem_okEvents (hlegal : ConfigLegal s) {ops : List MicroOp} (hno : .lhStcp ∉ ops) {tr : List Event}
    {q : ChainState} (hq : q ∈ chainSet (wiringOf s) (tr ++ okEvents s ops)) :
    ∃ q0 ∈ chainSet (wiringOf s) tr, q.out = q0.out := by
  induction ops generalizing tr with
  | nil =>
    rw [okEvents, List.map_nil, List.append_nil] at hq
    exact ⟨q, hq, rfl⟩
  | cons op ops ih =>
    obtain ⟨hop, hrest⟩ := not_or.1 (mt List.mem_cons.2 hno)
    rw [okEvents, List.map_cons, List.append_cons] at hq
    obtain ⟨q1, hq1, hout1⟩ := ih hrest hq
    obtain ⟨q0, hq0, hout0⟩ := out_of_mem_snoc (callOf_ne_write_stcp_high hlegal (Ne.symm hop)) hq1
    exact ⟨q0, hq0, hout1.trans hout0⟩

section StcpLow
variable {pins : List (Nat × PinState)} (hlegal : ConfigLegal s) (h : pinsWf pins = true)
include hlegal h

/-- One micro-operation other than `LH_STCP` leaves `STCP` low if it is `LL_STCP` or finds it low. -/
theorem stcp_low_after_op {op : MicroOp} (hop : op ≠ .lhStcp)
    (hlow : op = .llStcp ∨ levelIn pins (wiringOf s).stcp = .low) :
    levelIn (applyEvent pins ⟨callOf s op, true⟩) (wiringOf s).stcp = .low := by
  obtain ⟨-, h2, h3⟩ := hlegal.pins_distinct
  cases op with
  | lhStcp => exact absurd rfl hop
  | llStcp => exact (levelIn_okWrite h _ _ _).trans (if_pos rfl)
  | confDs | confShcp | confStcp => exact (levelIn_config h _ _).trans (hlow.resolve_left nofun)
  | llDs | shData | shDataLo =>
    exact (levelIn_okWrite h _ _ _).trans ((if_neg h2.symm).trans (hlow.resolve_left nofun))
  | llShcp | shClkLo | shClkHi =>
    exact (levelIn_okWrite h _ _ _).trans ((if_neg h3.symm).trans (hlow.resolve_left nofun))

/-- Through a list without `LH_STCP`, `STCP` is low once `LL_STCP` is done, and stays low. -/
theorem stcp_low_after_ops {ops : List MicroOp} (hno : .lhStcp ∉ ops)
    (hlow : .llStcp ∈ ops ∨ levelIn pins (wiringOf s).stcp = .low) :
    levelIn ((okEvents s ops).foldl applyEvent pins) (wiringOf s).stcp = .low := by
  induction ops generalizing pins with
  | nil => simpa [okEvents] using hlow
  | cons op ops ih =>
    obtain ⟨hop, hrest⟩ := not_or.1 (mt List.mem_cons.2 hno)
    refine ih (applyEvent_wf h _) hrest ?_
    rcases hlow with hmem | hlow
    · rcases List.mem_cons.1 hmem with rfl | hmem
      · exact .inr (stcp_low_after_op hlegal h (Ne.symm hop) (.inl rfl))
      · exact .inl hmem
    · exact .inr (stcp_low_after_op hlegal h (Ne.symm hop) (.inr hlow))

end StcpLow

/-- In a list that ends in `HighOps(W)`, `LH_STCP` is the last micro-operation and stands nowhere else. -/
theorem lhStcp_notMem_take {before : List MicroOp} (hbefore : .lhStcp ∉ before) {n k : Nat}
    (hk : k ≤ before.length + 4 * n) : .lhStcp ∉ (before ++ highOps n).take k := by
  intro hmem
  rw [highOps, ← List.append_assoc, List.take_append_of_le_length (by simpa using hk)] at hmem
  rcases List.mem_append.1 (List.mem_of_mem_take hmem) with hmem | hmem
  · exact hbefore hmem
  · obtain ⟨i, -, hop⟩ := mem_shiftOps.1 hmem
    simp at hop

/-- Short of its last call, a pushing command has not done `LH_STCP`. -/
theorem lhStcp_notMem_take_opsOf
    (hi : (∃ ds shcp stcp l v, i = .init ds shcp stcp l v) ∨ (∃ v, i = .writeBits v) ∨ i = .latchHigh) {n k : Nat}
    (hk : k < callsOf i n) : .lhStcp ∉ (opsOf i n).take k := by
  rcases hi with ⟨ds, shcp, stcp, l, v, rfl⟩ | ⟨v, rfl⟩ | rfl <;> simp only [callsOf] at hk
  · rw [opsOf, initOps_eq_append]
    exact lhStcp_notMem_take (by decide) (by simp; omega)
  · exact lhStcp_notMem_take (n := n) (before := lowOps) (by decide) (by simp; omega)
  · exact lhStcp_notMem_take (n := n) (before := []) (by decide) (by simp; omega)

theorem llStcp_mem_take_initOps (n : Nat) {k : Nat} (hk : 4 ≤ k) : .llStcp ∈ (initOps n).take k := by
  obtain ⟨k, rfl⟩ := Nat.exists_eq_add_of_le' hk
  simp [initOps, pushOps, lowOps]

theorem llStcp_mem_take_pushOps (n : Nat) {k : Nat} (hk : 1 ≤ k) : .llStcp ∈ (pushOps n).take k := by
  obtain ⟨k, rfl⟩ := Nat.exists_eq_add_of_le' hk
  simp [pushOps, lowOps]

/-- Settles O60: before its last call a pushing command has done a list without `LH_STCP`. -/
theorem outputsHeldDuringThePush : Obligations.OutputsHeldDuringThePush := by
  intro s c i k hinv hp hd hcheck hi hn hok hk
  cases k with
  | zero => exact ⟨s, rfl, fun q hq => ⟨q, hq, rfl⟩, by omega, by omega, fun _ hlow => hlow⟩
  | succ k =>
    obtain ⟨u, hrun, hdone, -⟩ :=
      run_command (k := k) hp hd hcheck (by omega) (hn.mono (by omega)) (hok.mono (by omega))
    have hlegal := configLegal_acceptedBy hinv hp hd hcheck
    have hno := lhStcp_notMem_take_opsOf hi hk
    have hstcp : .llStcp ∈ (opsOf i (widthFor i s)).take k ∨ pinLevel s (wiringFor i s).stcp = .low →
        pinLevel u (wiringFor i s).stcp = .low := by
      rw [pinLevel_eq, pinLevel_eq, hdone.pins, acceptedBy_pins, ← wiringOf_acceptedBy i c s]
      exact stcp_low_after_ops hlegal hinv.pinsCanonical hno
    refine ⟨u, hrun, fun q hq => ?_, ?_, ?_, fun _ hlow => hstcp (.inr hlow)⟩
    · rw [hdone.trace, acceptedBy_trace, ← wiringOf_acceptedBy i c s] at hq
      rw [← wiringOf_acceptedBy i c s]
      exact out_of_mem_okEvents hlegal hno hq
    · rintro ⟨ds, shcp, stcp, l, v, rfl⟩ hk5
      exact hstcp (.inl (llStcp_mem_take_initOps _ (by omega)))
    · rintro ⟨v, rfl⟩ hk2
      exact hstcp (.inl (llStcp_mem_take_pushOps _ (by omega)))

end Sys2Proof.Machine
